-- ==== Sys2Proof/Word.lean ====
section
/-! DEFINITION. The word and byte of the PMM block (00_scope.md R11: every register, entry and address is 64 bits). -/

namespace Sys2Proof

/-- A 64-bit register, page-table entry or address (R11 WORD). -/
abbrev Word := BitVec 64

/-- One byte of memory (20_memory.md R60: the unit of the port space). -/
abbrev Byte := BitVec 8

end Sys2Proof
end

