-- ==== Sys2Proof/Syntax.lean ====
section
/-! DEFINITION. The commands of the block: one constructor for each row of spec/opcode_table.json
(30_encoding.md R95). No field of a command word is an operand (R93), so every constructor is a constant:
the operands are the registers ARG0..ARG3. -/

namespace Sys2Proof

/-- A translation level (00_scope.md R17): L4 top-level, L3 upper-middle, L2 lower-middle, L1 leaf. -/
inductive Level where
  | l1 | l2 | l3 | l4
deriving DecidableEq, Repr

/-- The fields of a 32-bit command word (30_encoding.md R90). -/
structure CommandWord where
  /-- OP, bits 7:0. -/
  op : BitVec 8
  /-- LVL, bits 9:8. -/
  lvl : BitVec 2
  /-- MBZ, bits 31:10. -/
  mbz : BitVec 22
deriving DecidableEq, Repr

/-- The commands of 30_encoding.md R95, one constructor per row of the opcode table. -/
inductive Instr where
  | pteNewL1 | pteNewL2 | pteNewL3 | pteNewL4
  | pteFlagsL1 | pteFlagsL2 | pteFlagsL3 | pteFlagsL4
  | pteFrameL1 | pteFrameL2 | pteFrameL3 | pteFrameL4
  | ptePresentL1 | ptePresentL2 | ptePresentL3 | ptePresentL4
  | pteLargeL2 | pteLargeL3
  | pteRsvdL1 | pteRsvdL2 | pteRsvdL3 | pteRsvdL4
  | bitx | biti
  | arenaFind | arenaAlloc | arenaFree
  | bitmapBuild
  | walkStart | walkNext | walkMark | walkCheck
  | frameAlloc | frameFree | frameTest | freeCount | bitmapFreeze
  | csrRead | csrWrite | reset
deriving DecidableEq, Repr

end Sys2Proof
end

