-- ==== Sys2Proof/WellFormed.lean ====
section
/-! DEFINITION. The checks on a command word (30_encoding.md R96): a word is legal when it passes all four.
An `Instr` has no field, so none is ill-formed: the checks stand on the word's fields. -/

namespace Sys2Proof

/-- The operation codes of the page-table entry codec (30_encoding.md R94), which use LVL. -/
def codecOps : List (BitVec 8) := [0x01, 0x02, 0x03, 0x04, 0x05, 0x06]

/-- The operation codes that take no level (30_encoding.md R94). -/
def plainOps : List (BitVec 8) :=
  [0x08, 0x09, 0x10, 0x11, 0x12, 0x20, 0x30, 0x31, 0x32, 0x33,
   0x40, 0x41, 0x42, 0x43, 0x44, 0xF0, 0xF1, 0xFF]

/-- R96, first check: CMD[31:10] is zero. -/
def CommandWord.mbzClear (c : CommandWord) : Bool := c.mbz == 0

/-- R96, second check: OP is one of the 24 codes of R94. -/
def CommandWord.opAssigned (c : CommandWord) : Bool := codecOps.contains c.op || plainOps.contains c.op

/-- R96, third check: LVL is 0 unless OP is a codec code. -/
def CommandWord.levelAllowed (c : CommandWord) : Bool := codecOps.contains c.op || c.lvl == 0

/-- R96, fourth check: PTE_LARGE exists at L2 and L3 only. -/
def CommandWord.largeLevelOk (c : CommandWord) : Bool := c.op != 0x05 || c.lvl == 1 || c.lvl == 2

/-- A command word that R96 does not call illegal. -/
def CommandWord.wellFormed (c : CommandWord) : Bool :=
  c.mbzClear && c.opAssigned && c.levelAllowed && c.largeLevelOk

end Sys2Proof
end

