-- ==== Sys2Proof/Decode.lean ====
section
/-! DEFINITION. The decoder, total on every 32-bit word and rejecting by name (30_encoding.md R96, R97), and the
encoder, written from the same tables (R90, R91, R94). -/

namespace Sys2Proof

/-- Why a word is illegal (30_encoding.md R96). The response to each is the status ILLEGAL_CMD. -/
inductive DecodeError where
  /-- CMD[31:10] is not zero. -/
  | mbzNotZero
  /-- OP is not one of the 24 codes of R94. -/
  | unassignedOp
  /-- LVL is not 0 on an operation that has none. -/
  | levelNotZero
  /-- PTE_LARGE at L1 or L4. -/
  | noLargeBitAtLevel
deriving DecidableEq, Repr

/-- The fields of a command word (30_encoding.md R90). -/
def splitWord (w : BitVec 32) : CommandWord :=
  { op := w.extractLsb' 0 8, lvl := w.extractLsb' 8 2, mbz := w.extractLsb' 10 22 }

/-- The command word with the given fields (30_encoding.md R90). -/
def joinWord (c : CommandWord) : BitVec 32 := c.mbz ++ c.lvl ++ c.op

/-- The level a level code stands for (30_encoding.md R91). -/
def levelOfCode (lvl : BitVec 2) : Level :=
  if lvl = 0 then .l1 else if lvl = 1 then .l2 else if lvl = 2 then .l3 else .l4

/-- The level code of a level (30_encoding.md R91). -/
def codeOfLevel : Level → BitVec 2
  | .l1 => 0
  | .l2 => 1
  | .l3 => 2
  | .l4 => 3

/-- The four commands of one codec operation, chosen by level. -/
def atLevel (l : Level) (i1 i2 i3 i4 : Instr) : Instr :=
  match l with
  | .l1 => i1
  | .l2 => i2
  | .l3 => i3
  | .l4 => i4

/-- The codec operations at a level (30_encoding.md R97); `none` for PTE_LARGE at L1 and L4 and for any other
operation code. -/
def codecInstr (op : BitVec 8) (l : Level) : Option Instr :=
  if op = 0x01 then some (atLevel l .pteNewL1 .pteNewL2 .pteNewL3 .pteNewL4)
  else if op = 0x02 then some (atLevel l .pteFlagsL1 .pteFlagsL2 .pteFlagsL3 .pteFlagsL4)
  else if op = 0x03 then some (atLevel l .pteFrameL1 .pteFrameL2 .pteFrameL3 .pteFrameL4)
  else if op = 0x04 then some (atLevel l .ptePresentL1 .ptePresentL2 .ptePresentL3 .ptePresentL4)
  else if op = 0x05 then
    match l with
    | .l2 => some .pteLargeL2
    | .l3 => some .pteLargeL3
    | .l1 => none
    | .l4 => none
  else if op = 0x06 then some (atLevel l .pteRsvdL1 .pteRsvdL2 .pteRsvdL3 .pteRsvdL4)
  else none

/-- The operations that take no level (30_encoding.md R97). -/
def plainInstr (op : BitVec 8) : Option Instr :=
  if op = 0x08 then some .bitx
  else if op = 0x09 then some .biti
  else if op = 0x10 then some .arenaFind
  else if op = 0x11 then some .arenaAlloc
  else if op = 0x12 then some .arenaFree
  else if op = 0x20 then some .bitmapBuild
  else if op = 0x30 then some .walkStart
  else if op = 0x31 then some .walkNext
  else if op = 0x32 then some .walkMark
  else if op = 0x33 then some .walkCheck
  else if op = 0x40 then some .frameAlloc
  else if op = 0x41 then some .frameFree
  else if op = 0x42 then some .frameTest
  else if op = 0x43 then some .freeCount
  else if op = 0x44 then some .bitmapFreeze
  else if op = 0xF0 then some .csrRead
  else if op = 0xF1 then some .csrWrite
  else if op = 0xFF then some .reset
  else none

/-- Whether an operation code belongs to the codec (30_encoding.md R97: 0x01 to 0x06). -/
def isCodecOp (op : BitVec 8) : Bool := 0x01 ≤ op.toNat && op.toNat ≤ 0x06

/-- The decoder over the fields of a word (30_encoding.md R97). -/
def decodeFields (c : CommandWord) : Except DecodeError Instr :=
  if c.mbz ≠ 0 then .error .mbzNotZero
  else if isCodecOp c.op then
    match codecInstr c.op (levelOfCode c.lvl) with
    | some i => .ok i
    | none => .error .noLargeBitAtLevel
  else
    match plainInstr c.op with
    | none => .error .unassignedOp
    | some i => if c.lvl = 0 then .ok i else .error .levelNotZero

/-- The decoder, total on every 32-bit word (30_encoding.md R97). -/
def decode (w : BitVec 32) : Except DecodeError Instr := decodeFields (splitWord w)

/-- The operation code of a command (30_encoding.md R94). -/
def opOf : Instr → BitVec 8
  | .pteNewL1 | .pteNewL2 | .pteNewL3 | .pteNewL4 => 0x01
  | .pteFlagsL1 | .pteFlagsL2 | .pteFlagsL3 | .pteFlagsL4 => 0x02
  | .pteFrameL1 | .pteFrameL2 | .pteFrameL3 | .pteFrameL4 => 0x03
  | .ptePresentL1 | .ptePresentL2 | .ptePresentL3 | .ptePresentL4 => 0x04
  | .pteLargeL2 | .pteLargeL3 => 0x05
  | .pteRsvdL1 | .pteRsvdL2 | .pteRsvdL3 | .pteRsvdL4 => 0x06
  | .bitx => 0x08
  | .biti => 0x09
  | .arenaFind => 0x10
  | .arenaAlloc => 0x11
  | .arenaFree => 0x12
  | .bitmapBuild => 0x20
  | .walkStart => 0x30
  | .walkNext => 0x31
  | .walkMark => 0x32
  | .walkCheck => 0x33
  | .frameAlloc => 0x40
  | .frameFree => 0x41
  | .frameTest => 0x42
  | .freeCount => 0x43
  | .bitmapFreeze => 0x44
  | .csrRead => 0xF0
  | .csrWrite => 0xF1
  | .reset => 0xFF

/-- The level code of a command, 0 for an operation that takes no level (30_encoding.md R90, R91). -/
def lvlOf : Instr → BitVec 2
  | .pteNewL1 | .pteFlagsL1 | .pteFrameL1 | .ptePresentL1 | .pteRsvdL1 => codeOfLevel .l1
  | .pteNewL2 | .pteFlagsL2 | .pteFrameL2 | .ptePresentL2 | .pteLargeL2 | .pteRsvdL2 => codeOfLevel .l2
  | .pteNewL3 | .pteFlagsL3 | .pteFrameL3 | .ptePresentL3 | .pteLargeL3 | .pteRsvdL3 => codeOfLevel .l3
  | .pteNewL4 | .pteFlagsL4 | .pteFrameL4 | .ptePresentL4 | .pteRsvdL4 => codeOfLevel .l4
  | .bitx | .biti | .arenaFind | .arenaAlloc | .arenaFree | .bitmapBuild
  | .walkStart | .walkNext | .walkMark | .walkCheck
  | .frameAlloc | .frameFree | .frameTest | .freeCount | .bitmapFreeze
  | .csrRead | .csrWrite | .reset => 0

/-- The fields of a command's word (30_encoding.md R90, R94). -/
def fieldsOf (i : Instr) : CommandWord := { op := opOf i, lvl := lvlOf i, mbz := 0 }

/-- The command word of a command (30_encoding.md R95). -/
def encode (i : Instr) : BitVec 32 := joinWord (fieldsOf i)

/-- What the decoder reads from an instruction whose bits are `w`, `nbits` of them given by the table and every
bit above them 0. A command word is one 32-bit word on the command port (30_encoding.md R92), so no byte order
enters: bit 0 of the word is bit 0 of CMD. -/
def decodeTableWord (nbits w : Nat) : Option Instr :=
  match decode (BitVec.ofNat 32 (w % 2 ^ nbits)) with
  | .ok i => some i
  | .error _ => none

end Sys2Proof
end

