-- ==== Sys2Proof/Machine/Flags.lean ====
section
/-! DEFINITION. The flag and field computations on a page-table entry (40_pte_codec.md, 43_page_walker.md): the
address field, the flag masks, the reserved bits, the record fields, and the bit ranges of BITX and BITI. The block
has no condition codes (10_state.md R48); a command's other outcome is its STATUS code. -/

namespace Sys2Proof.Machine

/-- ADDR_MASK, bits 51:12 (40_pte_codec.md R120). -/
def addrMask : Word := 0x000FFFFFFFFFF000

/-- The six flags every level has: bits 0 to 5 (40_pte_codec.md R121, R122). -/
def tableFlagMask : Word := 0x3F

/-- DIRTY and LARGE, flags of a large-page entry (R121, R122). -/
def largeFlagMask : Word := 0xC0

/-- The nine flags of a leaf entry (R122). -/
def leafFlagMask : Word := 0x800000000000017F

/-- The PRESENT bit (R121). -/
def entryPresent (e : Word) : Bool := e.getLsbD 0

/-- The LARGE (page-size) bit (R121). -/
def entryLarge (e : Word) : Bool := e.getLsbD 7

/-- FMASK(L, w), the flags valid at level L for the word w (40_pte_codec.md R122). -/
def flagMask (l : Level) (w : Word) : Word :=
  match l with
  | .l4 => tableFlagMask
  | .l3 => tableFlagMask ||| (if entryLarge w then largeFlagMask else 0)
  | .l2 => tableFlagMask ||| (if entryLarge w then largeFlagMask else 0)
  | .l1 => leafFlagMask

/-- The entry PTE_NEW packs (40_pte_codec.md R125). -/
def packEntry (l : Level) (addr flags : Word) : Word :=
  (addr &&& addrMask) ||| (flags &&& flagMask l flags)

/-- The flags PTE_FLAGS extracts (R126). -/
def entryFlags (l : Level) (e : Word) : Word := e &&& flagMask l e

/-- The frame address PTE_FRAME extracts (R127): bits 51:12 of the entry, in place. -/
def entryFrame (e : Word) : Word := (e.extractLsb' 12 40).setWidth 64 <<< 12

/-- A Boolean as a 64-bit result (R128, R129). -/
def boolWord (b : Bool) : Word := if b then 1 else 0

/-- PHYSMASK(M), the address bits at or above M (40_pte_codec.md R140). -/
def physMask (m : Nat) : Word := addrMask &&& ~~~(BitVec.ofNat 64 (2 ^ m - 1))

/-- RSV(L, e) for M physical address bits and the given NXE (40_pte_codec.md R140). -/
def reservedMask (l : Level) (e : Word) (m : Nat) (nxe : Bool) : Word :=
  physMask m
    ||| (match l with
      | .l4 => 0x80
      | .l3 => if entryLarge e then 0x3FFFE000 else 0
      | .l2 => if entryLarge e then 0x001FE000 else 0
      | .l1 => 0)
    ||| (if nxe then 0 else 0x8000000000000000)

/-- VIOL(L, e): the reserved bits set in a present entry (40_pte_codec.md R140). -/
def violation (l : Level) (e : Word) (m : Nat) (nxe : Bool) : Word :=
  if entryPresent e then e &&& reservedMask l e m nxe else 0

/-- START2M(e): the start of a 2 MiB page (43_page_walker.md R210). -/
def start2M (e : Word) : Word := e &&& addrMask &&& ~~~0x1FFFFF

/-- ROOT(cr3): the address of the top-level table (43_page_walker.md R206). -/
def rootTable (cr3 : Word) : Word := cr3 &&& addrMask

/-- VA(i4, i3, i2, i1): the canonical virtual address of a mapping, bit 47 sign-extended
(43_page_walker.md R211). -/
def virtualAddress (i4 i3 i2 i1 : Nat) : Word :=
  ((BitVec.ofNat 48 i4 <<< 39) ||| (BitVec.ofNat 48 i3 <<< 30) ||| (BitVec.ofNat 48 i2 <<< 21)
    ||| (BitVec.ofNat 48 i1 <<< 12)).signExtend 64

/-- The field BITX extracts from [lo, hi) (40_pte_codec.md R145). -/
def bitExtract (v : Word) (lo hi : Nat) : Word := (v >>> lo) &&& BitVec.ofNat 64 (2 ^ (hi - lo) - 1)

/-- The value BITI builds by replacing [lo, hi) of v by the low bits of x (40_pte_codec.md R146). -/
def bitInsert (v : Word) (lo hi : Nat) (x : Word) : Word :=
  let m : Word := BitVec.ofNat 64 ((2 ^ (hi - lo) - 1) * 2 ^ lo)
  (v &&& ~~~m) ||| ((x <<< lo) &&& m)

/-- Whether a flag word is level-appropriate (40_pte_codec.md R123). -/
def levelAppropriate (l : Level) (f : Word) : Bool := f &&& ~~~(flagMask l f) == 0

end Sys2Proof.Machine
end

