-- ==== Sys2Proof/Config.lean ====
section
/-! DEFINITION. The parameters the spec leaves open as arguments of the model (00_scope.md R11, 92_eei_decisions.md
D12 and D39), and the one value it leaves open. The parameters are a field of the state that no step changes, so that
every statement over all states is a statement over all values of the parameters (log entry 8). -/

namespace Sys2Proof

/-- The open parameters of 00_scope.md R11. -/
structure Config where
  /-- MMAP_MAX: the largest MMAP_COUNT the block accepts, `none` when unbounded (R11, R71). -/
  mmapMax : Option Nat
  /-- PORT_CAN_ERROR: whether the memory port can answer an access with an error (R11, R81). -/
  portCanError : Bool
deriving DecidableEq, Repr

/-- The parameters at reset: PORT_CAN_ERROR has the spec's default false.
DESIGN CHOICE (log entry 8): MMAP_MAX is unbounded. -/
def Config.standard : Config := { mmapMax := none, portCanError := false }

/-- RES0 of FRAME_ALLOC for a frame that starts at or above 2^64, where 4096 f is no 64-bit value and the spec states
no result (44_frame_allocator.md R240, 00_scope.md R13): a free value, which nothing can evaluate (log entry 14). -/
opaque Config.startBeyond (frame : Nat) : Word

end Sys2Proof
end

