-- ==== Sys2Proof/Machine/State.lean ====
section
/-! DEFINITION. Everything the spec gives the machine (10_state.md), as plain data, and the state after reset
(70_reset_and_hazards.md R330). What the registers' numbers, codes and packings are stands in Operands.lean. -/

namespace Sys2Proof.Machine

/-- STATE.LIFECYCLE (10_state.md R30, R46). -/
inductive Lifecycle where
  | uninit | built | inuse | frozen
deriving DecidableEq, Repr

/-- The status codes (60_exceptions.md R300). -/
inductive Status where
  | ok | invalidAlignment | alignmentNotPossible | outOfSpace | outOfMemory | illegalCmd | badState
  | badRange | walkIdle | halted | badAccess | badConfig | fatal
deriving DecidableEq, Repr

/-- The fatal fault codes (60_exceptions.md R305). -/
inductive FaultCode where
  | lookupNotFound | arenaExhausted | reservedBit | unsupportedPageSize | busError
deriving DecidableEq, Repr

/-- Four 64-bit registers: ARG0..ARG3 or RES0..RES3 (10_state.md R25, R26). -/
structure Quad where
  v0 : Word
  v1 : Word
  v2 : Word
  v3 : Word
deriving DecidableEq, Repr

/-- FAULT (`none` is code 0) and FAULT_INFO0..2 (10_state.md R31). -/
structure FaultRegs where
  code : Option FaultCode
  info0 : Word
  info1 : Word
  info2 : Word
deriving DecidableEq, Repr

/-- ARENA_BASE, ARENA_END (`limit`) and ARENA_CURSOR (10_state.md R38, R42). -/
structure ArenaRegs where
  base : Word
  limit : Word
  cursor : Word
deriving DecidableEq, Repr

/-- BITMAP_BASE, BITMAP_BYTES and FRAME_COUNT (10_state.md R40). -/
structure BitmapRegs where
  base : Word
  bytes : Word
  frameCount : Word
deriving DecidableEq, Repr

/-- The tables and entry indices of the walker's position (10_state.md R43). An index is an integer 0..512, where
512 means that the table at that level is exhausted. -/
structure WalkPos where
  tbl4 : Word
  tbl3 : Word
  tbl2 : Word
  tbl1 : Word
  idx4 : Fin 513
  idx3 : Fin 513
  idx2 : Fin 513
  idx1 : Fin 513
deriving DecidableEq, Repr

/-- The walker (10_state.md R43, 43_page_walker.md R203): WSTATE, WLVL and the position together. WLVL is 0 when
IDLE (no walk since reset, every TBL and IDX 0), the level of the table being read when ACTIVE, and 5 when DONE.
DEDUCED (log entry 12): between commands no other combination occurs. -/
inductive Walker where
  | idle
  | active (level : Level) (pos : WalkPos)
  | done (pos : WalkPos)
deriving DecidableEq, Repr

/-- The byte store behind the memory port (20_memory.md R60): the bytes that differ from what an unlisted address
reads as, in rising address order (Memory.wf in Ops.lean). -/
structure Memory where
  cells : List Host.Cell
deriving DecidableEq, Repr

/-- How the memory port answers one access: the model's oracle (10_state.md R20, log entry 5). -/
inductive PortAnswer where
  /-- The access completes and a read returns what memory holds. -/
  | normal
  /-- The port answers with an error (20_memory.md R81). The spec does not say what a write answered so leaves at its
  address: the byte `left`, which is free (log entry 9). A read leaves memory as it is. -/
  | error (left : Byte)
  /-- Another agent writes the location while it is read, and the read returns the low bits of `v`
  (20_memory.md R79). -/
  | raced (v : Word)
deriving DecidableEq, Repr

/-- One request on the command port (10_state.md R21): the command word and the four operands, with the answers the
memory port will give to the accesses of the command, the first first; when they run out, `normal` (log entry 5). -/
structure Request where
  cmd : BitVec 32
  args : Quad
  answers : List PortAnswer
deriving DecidableEq, Repr

/-- What the outside world does to the block, one event at a time (10_state.md R20, R21, R24; log entries 1, 3). -/
inductive Input where
  /-- The host issues a command. -/
  | command (r : Request)
  /-- The reset input is asserted (R24). -/
  | resetLine
  /-- Another memory agent stores one byte (R20). -/
  | store (addr : Word) (value : Byte)
deriving DecidableEq, Repr

/-- The state of the machine (10_state.md). -/
structure State where
  /-- ARG0..ARG3 (R25). -/
  args : Quad
  /-- RES0..RES3 (R26). -/
  res : Quad
  /-- STATUS (R29). -/
  status : Status
  /-- STATE.LIFECYCLE (R30, R46). -/
  lifecycle : Lifecycle
  /-- STATE.ARENA_VALID (R39). -/
  arenaValid : Bool
  /-- STATE.HALTED (R30). -/
  halted : Bool
  /-- STATE.WSTATE, WALK_ROOT, WALK_POS, WALK_TBL3..1 (R43). -/
  walker : Walker
  /-- FAULT and FAULT_INFO0..2 (R31). -/
  fault : FaultRegs
  /-- CTRL (R32). -/
  ctrl : Word
  /-- DMAP_OFFSET (R33). -/
  dmapOffset : Word
  /-- MMAP_BASE (R34). -/
  mmapBase : Word
  /-- MMAP_COUNT (R34). -/
  mmapCount : Word
  /-- ADDR_WIDTHS (R35). -/
  addrWidths : Word
  /-- USABLE_TYPE (R36). -/
  usableType : Word
  /-- ARENA_BASE, ARENA_END, ARENA_CURSOR (R38, R42). -/
  arena : ArenaRegs
  /-- BITMAP_BASE, BITMAP_BYTES, FRAME_COUNT (R40). -/
  bitmap : BitmapRegs
  /-- The memory behind the port (20_memory.md R60). -/
  mem : Memory
  /-- The model's own: the events still to come, oldest first (log entry 1). -/
  inputs : List Input
  /-- The model's own: the port's answers to the coming accesses of the current command (log entry 5). -/
  answers : List PortAnswer
  /-- The model's own: the open parameters of 00_scope.md R11, never changed (log entry 8). -/
  config : Config
deriving DecidableEq, Repr

/-- Why a step stops with no next state. The block's fatal faults (60_exceptions.md R305) are not among them: they
halt the block, which is a next state (R309). -/
inductive Fault where
  /-- Raised by WALK_NEXT, WALK_MARK and WALK_CHECK if a walk used more iterations than the bound of
  43_page_walker.md R217. Safe: the model stops where the block would go on. Laws/Walk.lean proves that it is never
  raised (log entry 13). -/
  | walkBound
deriving DecidableEq, Repr

/-- Why the model refuses an instruction. -/
inductive Refusal where
  /-- Raised by an arm of exec for an instruction without a meaning. Safe. Every instruction has a meaning, so no
  arm raises it. -/
  | notModelled (mnemonic : String)
deriving DecidableEq, Repr

/-- Four registers that are 0. -/
def Quad.zero : Quad := { v0 := 0, v1 := 0, v2 := 0, v3 := 0 }

/-- The state after reset (70_reset_and_hazards.md R330) and at power-on (R332): every register 0 but CTRL = 0x2.
Memory lists nothing (DESIGN CHOICE, log entry 4), no event waits (log entry 1), the port answers normally (log
entry 5), and the parameters are `Config.standard` (log entry 8). -/
def State.reset : State :=
  { args := .zero
    res := .zero
    status := .ok
    lifecycle := .uninit
    arenaValid := false
    halted := false
    walker := .idle
    fault := { code := none, info0 := 0, info1 := 0, info2 := 0 }
    ctrl := 0x2
    dmapOffset := 0
    mmapBase := 0
    mmapCount := 0
    addrWidths := 0
    usableType := 0
    arena := { base := 0, limit := 0, cursor := 0 }
    bitmap := { base := 0, bytes := 0, frameCount := 0 }
    mem := { cells := [] }
    inputs := []
    answers := []
    config := .standard }

end Sys2Proof.Machine
end

