-- ==== Sys2Proof/Machine/Operands.lean ====
section
/-! DEFINITION. The operand forms of the commands (30_encoding.md R93), the register map (10_state.md R28) and the
codes and packings of the registers' fields. -/

namespace Sys2Proof.Machine

/-- Page sizes (00_scope.md R16): 4 KiB and 2 MiB. -/
inductive PageSize where
  | kib4 | mib2
deriving DecidableEq, Repr

/-- The size code of a page (00_scope.md R16). -/
def pageSizeCode : PageSize → Word
  | .kib4 => 0
  | .mib2 => 1

/-- The page size a size-code operand names; the whole value counts (30_encoding.md R93, 44_frame_allocator.md
R242). -/
def pageSizeOf (v : Word) : Option PageSize :=
  if v = 0 then some .kib4 else if v = 1 then some .mib2 else none

/-- FRAME_SIZE (00_scope.md R11). -/
def frameSize : Nat := 4096

/-- How many frames a page has (43_page_walker.md R214, 44_frame_allocator.md R242). -/
def pageFrames : PageSize → Nat
  | .kib4 => 1
  | .mib2 => 512

/-- ispow2(n) (00_scope.md R13), for a 64-bit operand. -/
def isPow2 (n : Nat) : Bool := (List.range 64).any (fun k => n == 2 ^ k)

/-- align_up(a, n) over unbounded integers (00_scope.md R13). -/
def alignUp (a n : Nat) : Nat := (a + n - 1) / n * n

/-- ceil_div(a, n) (00_scope.md R13). -/
def ceilDiv (a n : Nat) : Nat := (a + n - 1) / n

/-- The range check of BITX and BITI (40_pte_codec.md R145, R146). -/
def bitRangeValid (lo hi : Word) : Bool := lo.toNat ≤ hi.toNat && hi.toNat ≤ 64

/-- CTRL.RESERVE_SELF (10_state.md R32). -/
def State.reserveSelf (s : State) : Bool := s.ctrl.getLsbD 0

/-- CTRL.NXE (10_state.md R32). -/
def State.nxe (s : State) : Bool := s.ctrl.getLsbD 1

/-- ADDR_WIDTHS.PHYS_BITS (10_state.md R35). -/
def State.physBits (s : State) : Nat := (s.addrWidths.extractLsb' 0 8).toNat

/-- ADDR_WIDTHS.VIRT_BITS, recorded only (10_state.md R35, 92_eei_decisions.md D47). -/
def State.virtBits (s : State) : Nat := (s.addrWidths.extractLsb' 8 8).toNat

/-- The legal range of PHYS_BITS (10_state.md R35). -/
def State.physBitsValid (s : State) : Bool := 13 ≤ s.physBits && s.physBits ≤ 52

/-- Whether MMAP_COUNT exceeds MMAP_MAX (20_memory.md R71). -/
def State.mmapTooLong (s : State) : Bool :=
  match s.config.mmapMax with
  | none => false
  | some m => m < s.mmapCount.toNat

/-- The status codes (60_exceptions.md R300). -/
def statusCode : Status → BitVec 8
  | .ok => 0x00
  | .invalidAlignment => 0x01
  | .alignmentNotPossible => 0x02
  | .outOfSpace => 0x03
  | .outOfMemory => 0x04
  | .illegalCmd => 0x05
  | .badState => 0x06
  | .badRange => 0x07
  | .walkIdle => 0x08
  | .halted => 0x09
  | .badAccess => 0x0A
  | .badConfig => 0x0B
  | .fatal => 0x0F

/-- The fatal fault codes (60_exceptions.md R305); code 0 means no fault. -/
def faultCode : Option FaultCode → BitVec 8
  | none => 0
  | some .lookupNotFound => 1
  | some .arenaExhausted => 2
  | some .reservedBit => 3
  | some .unsupportedPageSize => 4
  | some .busError => 5

/-- The LIFECYCLE codes (10_state.md R30). -/
def lifecycleCode : Lifecycle → BitVec 2
  | .uninit => 0
  | .built => 1
  | .inuse => 2
  | .frozen => 3

/-- The WSTATE codes (10_state.md R30). -/
def walkerStateCode : Walker → BitVec 2
  | .idle => 0
  | .active _ _ => 1
  | .done _ => 2

/-- The number of a level, as RESERVED_BIT reports it (60_exceptions.md R305) and as WLVL holds it. -/
def levelNumber : Level → Nat
  | .l1 => 1
  | .l2 => 2
  | .l3 => 3
  | .l4 => 4

/-- WLVL (10_state.md R43): 0 before a walk, 5 past the top table. -/
def walkerLevel : Walker → BitVec 3
  | .idle => 0
  | .active l _ => BitVec.ofNat 3 (levelNumber l)
  | .done _ => 5

/-- The position before any walk: all 0 (10_state.md R43). -/
def WalkPos.zero : WalkPos :=
  { tbl4 := 0, tbl3 := 0, tbl2 := 0, tbl1 := 0, idx4 := 0, idx3 := 0, idx2 := 0, idx1 := 0 }

/-- TBL[4..1] and IDX[4..1] (10_state.md R43). -/
def walkerPos : Walker → WalkPos
  | .idle => .zero
  | .active _ p => p
  | .done p => p

/-- The registers of 10_state.md R28. -/
inductive Csr where
  | status | state | fault | faultInfo0 | faultInfo1 | faultInfo2
  | ctrl | dmapOffset | mmapBase | mmapCount | addrWidths | usableType
  | arenaBase | arenaEnd | arenaCursor
  | bitmapBase | bitmapBytes | frameCount
  | walkRoot | walkPos | walkTbl3 | walkTbl2 | walkTbl1
deriving DecidableEq, Repr

/-- The register numbers (10_state.md R28). -/
def csrNumber : Csr → Nat
  | .status => 0x00
  | .state => 0x01
  | .fault => 0x02
  | .faultInfo0 => 0x03
  | .faultInfo1 => 0x04
  | .faultInfo2 => 0x05
  | .ctrl => 0x08
  | .dmapOffset => 0x09
  | .mmapBase => 0x0A
  | .mmapCount => 0x0B
  | .addrWidths => 0x0C
  | .usableType => 0x0D
  | .arenaBase => 0x10
  | .arenaEnd => 0x11
  | .arenaCursor => 0x12
  | .bitmapBase => 0x18
  | .bitmapBytes => 0x19
  | .frameCount => 0x1A
  | .walkRoot => 0x20
  | .walkPos => 0x21
  | .walkTbl3 => 0x22
  | .walkTbl2 => 0x23
  | .walkTbl1 => 0x24

/-- Every register, in the order of 10_state.md R28. -/
def allCsrs : List Csr :=
  [.status, .state, .fault, .faultInfo0, .faultInfo1, .faultInfo2,
   .ctrl, .dmapOffset, .mmapBase, .mmapCount, .addrWidths, .usableType,
   .arenaBase, .arenaEnd, .arenaCursor, .bitmapBase, .bitmapBytes, .frameCount,
   .walkRoot, .walkPos, .walkTbl3, .walkTbl2, .walkTbl1]

/-- The register an operand names (30_encoding.md R93): ARG0[7:0], with ARG0[63:8] required to be 0. -/
def csrOf (v : Word) : Option Csr := allCsrs.find? (fun c => csrNumber c == v.toNat)

/-- The access types of 10_state.md R28. -/
inductive CsrAccess where
  /-- Read-only. -/
  | ro
  /-- Read-write. -/
  | rw
  /-- Writable only while LIFECYCLE = UNINIT. -/
  | uninitOnly
deriving DecidableEq, Repr

/-- The access type of a register (10_state.md R28). -/
def csrAccess : Csr → CsrAccess
  | .ctrl | .addrWidths => .rw
  | .dmapOffset | .mmapBase | .mmapCount | .usableType => .uninitOnly
  | .status | .state | .fault | .faultInfo0 | .faultInfo1 | .faultInfo2
  | .arenaBase | .arenaEnd | .arenaCursor | .bitmapBase | .bitmapBytes | .frameCount
  | .walkRoot | .walkPos | .walkTbl3 | .walkTbl2 | .walkTbl1 => .ro

/-- The value of the register STATE (10_state.md R28, R30). -/
def State.stateWord (s : State) : Word :=
  (walkerStateCode s.walker ++ BitVec.ofBool s.halted ++ BitVec.ofBool s.arenaValid
    ++ lifecycleCode s.lifecycle).setWidth 64

/-- The value of the register WALK_POS (10_state.md R45). -/
def State.walkPosWord (s : State) : Word :=
  (walkerLevel s.walker ++ BitVec.ofNat 10 (walkerPos s.walker).idx1.val
    ++ BitVec.ofNat 10 (walkerPos s.walker).idx2.val ++ BitVec.ofNat 10 (walkerPos s.walker).idx3.val
    ++ BitVec.ofNat 10 (walkerPos s.walker).idx4.val).setWidth 64

/-- CSR[n], the value of a register (10_state.md R28, 45_control.md R270). -/
def State.readCsr (s : State) : Csr → Word
  | .status => (statusCode s.status).setWidth 64
  | .state => s.stateWord
  | .fault => (faultCode s.fault.code).setWidth 64
  | .faultInfo0 => s.fault.info0
  | .faultInfo1 => s.fault.info1
  | .faultInfo2 => s.fault.info2
  | .ctrl => s.ctrl
  | .dmapOffset => s.dmapOffset
  | .mmapBase => s.mmapBase
  | .mmapCount => s.mmapCount
  | .addrWidths => s.addrWidths
  | .usableType => s.usableType
  | .arenaBase => s.arena.base
  | .arenaEnd => s.arena.limit
  | .arenaCursor => s.arena.cursor
  | .bitmapBase => s.bitmap.base
  | .bitmapBytes => s.bitmap.bytes
  | .frameCount => s.bitmap.frameCount
  | .walkRoot => (walkerPos s.walker).tbl4
  | .walkPos => s.walkPosWord
  | .walkTbl3 => (walkerPos s.walker).tbl3
  | .walkTbl2 => (walkerPos s.walker).tbl2
  | .walkTbl1 => (walkerPos s.walker).tbl1

/-- WRITEVAL(n, v) (45_control.md R272); a read-only register has none and keeps v unused. -/
def csrWriteValue : Csr → Word → Word
  | .ctrl, v => v &&& 0x3
  | .dmapOffset, v => v &&& 0xFFFFFFFFFFFFF000
  | .mmapBase, v => v &&& 0xFFFFFFFFFFFFFFF8
  | .addrWidths, v => v &&& 0xFFFF
  | .mmapCount, v | .usableType, v => v
  | .status, v | .state, v | .fault, v | .faultInfo0, v | .faultInfo1, v | .faultInfo2, v
  | .arenaBase, v | .arenaEnd, v | .arenaCursor, v | .bitmapBase, v | .bitmapBytes, v | .frameCount, v
  | .walkRoot, v | .walkPos, v | .walkTbl3, v | .walkTbl2, v | .walkTbl1, v => v

/-- CSR[n] <- WRITEVAL(n, v) for the writable registers (45_control.md R271, R272); a read-only register is
unchanged, and CSR_WRITE never gets here with one. -/
def State.writeCsr (s : State) (c : Csr) (v : Word) : State :=
  match c with
  | .ctrl => { s with ctrl := csrWriteValue .ctrl v }
  | .dmapOffset => { s with dmapOffset := csrWriteValue .dmapOffset v }
  | .mmapBase => { s with mmapBase := csrWriteValue .mmapBase v }
  | .mmapCount => { s with mmapCount := csrWriteValue .mmapCount v }
  | .addrWidths => { s with addrWidths := csrWriteValue .addrWidths v }
  | .usableType => { s with usableType := csrWriteValue .usableType v }
  | .status | .state | .fault | .faultInfo0 | .faultInfo1 | .faultInfo2
  | .arenaBase | .arenaEnd | .arenaCursor | .bitmapBase | .bitmapBytes | .frameCount
  | .walkRoot | .walkPos | .walkTbl3 | .walkTbl2 | .walkTbl1 => s

end Sys2Proof.Machine
end

