-- ==== Sys2Proof/Machine/Ops.lean ====
section
/-! DEFINITION. The shared operations: the byte store and the memory port (20_memory.md), the completion of a command
(00_scope.md R14), the fatal-fault sequence and the way out of it (60_exceptions.md R309, 45_control.md R276), the
lifecycle gate (10_state.md R47), the command port (10_state.md R21), the memory-map snapshot (20_memory.md R71) and
the arena take (41_bootstrap_arena.md R163). -/

namespace Sys2Proof.Machine

/-! ### The byte store -/

/-- What an address that memory does not list reads as. DESIGN CHOICE (log entry 4): 0; the spec leaves the contents
of memory at power-on to the oracle (70_reset_and_hazards.md R332). -/
def memoryFill : Byte := 0

/-- The byte a list of cells holds at an address. -/
def lookupCell : List Host.Cell → Nat → Byte
  | [], _ => memoryFill
  | (k, v) :: rest, a => if k = a then v else lookupCell rest a

/-- The cells after a store; storing the fill byte drops the entry, so the form stays canonical. -/
def storeCell : List Host.Cell → Nat → Byte → List Host.Cell
  | [], a, b => if b = memoryFill then [] else [(a, b)]
  | (k, v) :: rest, a, b =>
    if k < a then (k, v) :: storeCell rest a b
    else if k = a then (if b = memoryFill then rest else (a, b) :: rest)
    else (if b = memoryFill then (k, v) :: rest else (a, b) :: (k, v) :: rest)

/-- Cells at addresses from `lo` on, strictly rising and below 2^64, none equal to the fill byte. -/
def cellsRiseFrom : Nat → List Host.Cell → Bool
  | _, [] => true
  | lo, (k, v) :: rest => decide (lo ≤ k) && decide (k < 2 ^ 64) && decide (v ≠ memoryFill) && cellsRiseFrom (k + 1) rest

/-- The canonical form of memory: equal memories are equal data. -/
def Memory.wf (m : Memory) : Bool := cellsRiseFrom 0 m.cells

/-- One byte of memory at a port address. -/
def Memory.read (m : Memory) (a : Word) : Byte := lookupCell m.cells a.toNat

/-- Memory after a one-byte store at a port address. -/
def Memory.write (m : Memory) (a : Word) (b : Byte) : Memory := { cells := storeCell m.cells a.toNat b }

/-- Eight bytes of memory, little-endian, the byte addresses taken modulo 2^64 (20_memory.md R62, R65). -/
def Memory.readWord (m : Memory) (a : Word) : Word :=
  m.read (a + 7) ++ m.read (a + 6) ++ m.read (a + 5) ++ m.read (a + 4)
    ++ m.read (a + 3) ++ m.read (a + 2) ++ m.read (a + 1) ++ m.read a

/-! ### Fatal faults and the memory port -/

/-- What a fatal fault records (60_exceptions.md R305). -/
structure FatalFault where
  code : FaultCode
  info0 : Word
  info1 : Word
  info2 : Word
deriving DecidableEq, Repr

/-- The outcome of a part of a command that accesses memory: a value, or the fatal fault that ends the command, each
with the state reached (20_memory.md R78: accesses performed before a fault stay performed). -/
inductive Access (α : Type) where
  | ok (value : α) (s : State)
  | fatal (f : FatalFault) (s : State)

/-- Phys(p), the port address of a physical address (00_scope.md R14, 20_memory.md R60). -/
def State.phys (s : State) (p : Word) : Word := p + s.dmapOffset

/-- How the port answers the next access. When no answer is left, and when the port cannot answer with an error
(20_memory.md R81: every access then completes; log entry 7), the answer is `normal`. -/
def State.nextAnswer (s : State) : PortAnswer :=
  match s.answers with
  | [] => .normal
  | .normal :: _ => .normal
  | .raced v :: _ => .raced v
  | .error left :: _ => if s.config.portCanError then .error left else .normal

/-- The state with one answer of the port used up. -/
def State.dropAnswer (s : State) : State := { s with answers := s.answers.tail }

/-- BUS_ERROR of an access (20_memory.md R81, 60_exceptions.md R305). -/
def busError (a : Word) (isWrite : Bool) : FatalFault :=
  { code := .busError, info0 := 0, info1 := a, info2 := boolWord isWrite }

/-- MemRead(a, 1): one 1-byte read (00_scope.md R14, 20_memory.md R63, R79, R81). -/
def readByte (a : Word) (s : State) : Access Byte :=
  match s.nextAnswer with
  | .normal => .ok (s.mem.read a) s.dropAnswer
  | .raced v => .ok (v.setWidth 8) s.dropAnswer
  | .error _ => .fatal (busError a false) s.dropAnswer

/-- MemRead(a, 8): one 8-byte read, a single access (20_memory.md R62, R63, R67). -/
def readWord (a : Word) (s : State) : Access Word :=
  match s.nextAnswer with
  | .normal => .ok (s.mem.readWord a) s.dropAnswer
  | .raced v => .ok v s.dropAnswer
  | .error _ => .fatal (busError a false) s.dropAnswer

/-- MemWrite(a, 1, b): one 1-byte write. A write that races is performed (93_implementation_defined.md I15, log
entry 6); what a write answered with an error leaves at its address is the answer's free byte (log entry 9). -/
def writeByte (a : Word) (b : Byte) (s : State) : Access Unit :=
  match s.nextAnswer with
  | .normal => .ok () { s.dropAnswer with mem := s.mem.write a b }
  | .raced _ => .ok () { s.dropAnswer with mem := s.mem.write a b }
  | .error left => .fatal (busError a true) { s.dropAnswer with mem := s.mem.write a left }

/-! ### Completion of a command -/

/-- The outcome of a step. -/
abbrev Result := Host.Outcome State Fault Refusal

/-- finish(OK) with the results given, the others 0 (00_scope.md R14, 10_state.md R26). -/
def finish (r : Quad) (s : State) : State := { s with res := r, status := .ok }

/-- fail(S): RES[0..3] are 0 and nothing else changes (00_scope.md R14). -/
def fail (st : Status) (s : State) : State := { s with res := .zero, status := st }

/-- TAKING A FATAL FAULT: the sequence of 60_exceptions.md R309. Nothing else changes, and no handler is entered:
the host sees STATUS = FATAL and the halted line (R317). -/
def raiseFatal (f : FatalFault) (s : State) : State :=
  { s with
    fault := { code := some f.code, info0 := f.info0, info1 := f.info1, info2 := f.info2 }
    halted := true
    res := .zero
    status := .fatal }

/-- THE RETURN FROM A FATAL FAULT, which is reset (60_exceptions.md R319; 45_control.md R276, 70_reset_and_hazards.md
R330): every register at its reset value, memory and the model's own fields unchanged (R331). ARG0..3 become 0 as R330
says (log entry 11). -/
def resetBlock (s : State) : State :=
  { State.reset with mem := s.mem, inputs := s.inputs, answers := s.answers, config := s.config }

/-! ### Which state permits which command -/

/-- The lifecycle table (10_state.md R47). CSR_WRITE is restricted per register instead (R28). -/
def permits (i : Instr) (lc : Lifecycle) (arenaValid : Bool) : Bool :=
  match i with
  | .pteNewL1 | .pteNewL2 | .pteNewL3 | .pteNewL4
  | .pteFlagsL1 | .pteFlagsL2 | .pteFlagsL3 | .pteFlagsL4
  | .pteFrameL1 | .pteFrameL2 | .pteFrameL3 | .pteFrameL4
  | .ptePresentL1 | .ptePresentL2 | .ptePresentL3 | .ptePresentL4
  | .pteLargeL2 | .pteLargeL3
  | .pteRsvdL1 | .pteRsvdL2 | .pteRsvdL3 | .pteRsvdL4
  | .bitx | .biti => true
  | .arenaFind => lc == .uninit && !arenaValid
  | .arenaAlloc | .bitmapBuild => lc == .uninit && arenaValid
  | .arenaFree | .walkStart | .walkNext => true
  | .walkMark | .frameAlloc | .frameFree | .bitmapFreeze => lc == .built || lc == .inuse
  | .walkCheck | .frameTest | .freeCount => lc == .built || lc == .inuse || lc == .frozen
  | .csrRead | .csrWrite | .reset => true

/-- The two commands a halted block executes (60_exceptions.md R311). -/
def runsHalted (i : Instr) : Bool := i == .csrRead || i == .reset

/-- The status that turns a command away before its own checks, in the order of 60_exceptions.md R313: HALTED, then
BAD_STATE from the lifecycle table. -/
def gate (i : Instr) (s : State) : Option Status :=
  if s.halted && !runsHalted i then some .halted
  else if permits i s.lifecycle s.arenaValid then none
  else some .badState

/-- An illegal command word: HALTED while halted, else ILLEGAL_CMD (30_encoding.md R96, 60_exceptions.md R313). -/
def rejectWord (s : State) : State := fail (if s.halted then .halted else .illegalCmd) s

/-- The move BUILT -> INUSE that FRAME_ALLOC and FRAME_FREE make (10_state.md R46), where 44_frame_allocator.md R240
and R242 make it: before the first access. A fatal fault after it leaves INUSE (60_exceptions.md R309; DEDUCED, log
entry 10). -/
def State.enterUse (s : State) : State :=
  if s.lifecycle = .built then { s with lifecycle := .inuse } else s

/-! ### The ports -/

/-- The command port's response (10_state.md R21): the STATUS code and RES0..RES3. -/
def State.response (s : State) : BitVec 8 × Quad := (statusCode s.status, s.res)

/-- The output line `halted` (10_state.md R24, 60_exceptions.md R315). -/
def State.haltedLine (s : State) : Bool := s.halted

/-- The state with a request accepted: its operands latched into ARG0..ARG3, whether the command uses them or not
(10_state.md R21, R25), and its port answers in place. -/
def accept (r : Request) (s : State) : State := { s with args := r.args, answers := r.answers }

/-- What the outside world does next. -/
inductive Arrival where
  /-- No event waits. -/
  | nothing
  /-- An event that is no command took effect. -/
  | happened (s : State)
  /-- A command word arrived, its request accepted. -/
  | word (cmd : BitVec 32) (s : State)

/-- Takes the oldest waiting event (log entries 1 and 3): a command is accepted, the reset input resets the block
without a response (10_state.md R24, 45_control.md R276), another agent's store changes one byte (R20). -/
def arrive (s : State) : Arrival :=
  match s.inputs with
  | [] => .nothing
  | .command r :: rest => .word r.cmd (accept r { s with inputs := rest })
  | .resetLine :: rest => .happened (resetBlock { s with inputs := rest })
  | .store a b :: rest => .happened { s with inputs := rest, mem := s.mem.write a b }

/-- A request with the given word that keeps the operands ARG0..ARG3 as they are. -/
def requestOf (cmd : BitVec 32) (s : State) : Request := { cmd := cmd, args := s.args, answers := s.answers }

/-! ### The memory map -/

/-- One entry of the memory-map table (20_memory.md R70). -/
structure MapEntry where
  base : Word
  length : Word
  type : Word
deriving DecidableEq, Repr

/-- A_k, the port address of entry k of the table (20_memory.md R70). -/
def State.entryAddr (s : State) (k : Nat) : Word := s.mmapBase + BitVec.ofNat 64 (24 * k)

/-- Reads entry k: base, length, type, in that order (20_memory.md R70, R71). -/
def readEntry (k : Nat) (s : State) : Access MapEntry :=
  match readWord (s.entryAddr k) s with
  | .fatal f s1 => .fatal f s1
  | .ok b s1 =>
    match readWord (s.entryAddr k + 8) s1 with
    | .fatal f s2 => .fatal f s2
    | .ok l s2 =>
      match readWord (s.entryAddr k + 16) s2 with
      | .fatal f s3 => .fatal f s3
      | .ok t s3 => .ok { base := b, length := l, type := t } s3

/-- Reads `n` entries from entry k on, adding them to those read before (newest first). -/
def readEntries : Nat → Nat → List MapEntry → State → Access (List MapEntry)
  | 0, _, acc, s => .ok acc.reverse s
  | n + 1, k, acc, s =>
    match readEntry k s with
    | .fatal f s1 => .fatal f s1
    | .ok e s1 => readEntries n (k + 1) (e :: acc) s1

/-- The snapshot of the whole table, entry 0 to entry MMAP_COUNT - 1 (20_memory.md R71). -/
def snapshot (s : State) : Access (List MapEntry) := readEntries s.mmapCount.toNat 0 [] s

/-! ### The arena -/

/-- take(size, align) (41_bootstrap_arena.md R163): the start of the region, with the cursor moved past it, or the
status that says why there is none, with nothing changed. -/
def take (size align : Nat) (s : State) : Except Status (Nat × State) :=
  if !isPow2 align then .error .invalidAlignment
  else
    let start := alignUp s.arena.cursor.toNat align
    if 2 ^ 64 - 1 < start || s.arena.limit.toNat < start then .error .alignmentNotPossible
    else if s.arena.limit.toNat < start + size then .error .outOfSpace
    else .ok (start, { s with arena := { s.arena with cursor := BitVec.ofNat 64 (start + size) } })

/-! ### The bitmap -/

/-- The port address of bitmap byte k (20_memory.md R72). -/
def State.bitmapAddr (s : State) (k : Nat) : Word := s.phys (s.bitmap.base + BitVec.ofNat 64 k)

/-- The port address of the byte that holds the bit of frame f (10_state.md R41). -/
def State.frameByteAddr (s : State) (f : Nat) : Word := s.bitmapAddr (f / 8)

/-- The byte with one bit set. -/
def setBit (b : Byte) (k : Nat) : Byte := b ||| (1#8 <<< k)

/-- The byte with one bit cleared. -/
def clearBit (b : Byte) (k : Nat) : Byte := b &&& ~~~(1#8 <<< k)

end Sys2Proof.Machine
end

