-- ==== Sys2Proof/Machine/Arena.lean ====
section
/-! DEFINITION. The bootstrap arena (41_bootstrap_arena.md R160-R167). -/

namespace Sys2Proof.Machine

/-- The base of the arena an entry gives, if it is usable and the arena fits (R161), over unbounded integers. -/
def arenaFit (usable : Word) (size align : Nat) (e : MapEntry) : Option Nat :=
  let start := alignUp e.base.toNat align
  if e.type = usable ∧ start + size ≤ e.base.toNat + e.length.toNat ∧ start + size ≤ 2 ^ 64 - 1 then some start
  else none

/-- The first entry, in table order, that the arena fits in: its base and its index (R161). -/
def findArena (usable : Word) (size align : Nat) : List MapEntry → Nat → Option (Nat × Nat)
  | [], _ => none
  | e :: rest, k =>
    match arenaFit usable size align e with
    | some start => some (start, k)
    | none => findArena usable size align rest (k + 1)

/-- The arena registers a successful ARENA_FIND leaves (R161). -/
def State.setArena (s : State) (start size : Nat) : State :=
  { s with
    arena := { base := BitVec.ofNat 64 start, limit := BitVec.ofNat 64 (start + size), cursor := BitVec.ofNat 64 start }
    arenaValid := true }

/-- ARENA_FIND (R161). -/
def execArenaFind (s : State) : Result :=
  match gate .arenaFind s with
  | some st => .next (fail st s)
  | none =>
    if s.mmapTooLong then .next (fail .badConfig s)
    else if !isPow2 s.args.v1.toNat then .next (fail .invalidAlignment s)
    else
      match snapshot s with
      | .fatal f s1 => .next (raiseFatal f s1)
      | .ok mm s1 =>
        match findArena s.usableType s.args.v0.toNat s.args.v1.toNat mm 0 with
        | some (start, k) =>
          .next (finish
            { v0 := BitVec.ofNat 64 start, v1 := BitVec.ofNat 64 (start + s.args.v0.toNat), v2 := BitVec.ofNat 64 k, v3 := 0 }
            (s1.setArena start s.args.v0.toNat))
        | none =>
          .next (raiseFatal
            { code := .lookupNotFound, info0 := s.args.v0, info1 := s.args.v1, info2 := s.mmapCount } s1)

/-- ARENA_ALLOC (R165). -/
def execArenaAlloc (s : State) : Result :=
  match gate .arenaAlloc s with
  | some st => .next (fail st s)
  | none =>
    match take s.args.v0.toNat s.args.v1.toNat s with
    | .error st => .next (fail st s)
    | .ok (start, s1) =>
      .next (finish
        { Quad.zero with v0 := BitVec.ofNat 64 start, v1 := BitVec.ofNat 64 (start + s.args.v0.toNat) } s1)

/-- ARENA_FREE, a no-op by design (R167). -/
def execArenaFree (s : State) : Result :=
  match gate .arenaFree s with
  | some st => .next (fail st s)
  | none => .next (finish .zero s)

end Sys2Proof.Machine
end

