-- ==== Sys2Proof/Machine/BitRange.lean ====
section
/-! DEFINITION. Bit-range extraction and insertion (40_pte_codec.md R145, R146). -/

namespace Sys2Proof.Machine

/-- BITX (R145): the bits of [lo, hi) at position 0. -/
def execBitx (s : State) : Result :=
  match gate .bitx s with
  | some st => .next (fail st s)
  | none =>
    if !bitRangeValid s.args.v1 s.args.v2 then .next (fail .badRange s)
    else .next (finish { Quad.zero with v0 := bitExtract s.args.v0 s.args.v1.toNat s.args.v2.toNat } s)

/-- BITI (R146): the value with [lo, hi) replaced. -/
def execBiti (s : State) : Result :=
  match gate .biti s with
  | some st => .next (fail st s)
  | none =>
    if !bitRangeValid s.args.v1 s.args.v2 then .next (fail .badRange s)
    else
      .next (finish
        { Quad.zero with v0 := bitInsert s.args.v0 s.args.v1.toNat s.args.v2.toNat s.args.v3 } s)

end Sys2Proof.Machine
end

