-- ==== Sys2Proof/Machine/Bitmap.lean ====
section
/-! DEFINITION. The frame bitmap builder (42_bitmap_builder.md R180-R187). -/

namespace Sys2Proof.Machine

/-- SPAN(MM) (R181): the largest end of an entry, 0 for an empty table, over unbounded integers. -/
def mapSpan (mm : List MapEntry) : Nat := mm.foldl (fun m e => max m (e.base.toNat + e.length.toNat)) 0

/-- FRAMES(MM) (R181). -/
def mapFrames (mm : List MapEntry) : Nat := mapSpan mm / frameSize

/-- Whether an entry marks frame f used (R183): non-usable, of non-zero length, and overlapping the frame. -/
def entryMarks (usable : Word) (f : Nat) (e : MapEntry) : Bool :=
  e.type != usable && 0 < e.length.toNat && e.base.toNat < frameSize * (f + 1)
    && frameSize * f < e.base.toNat + e.length.toNat

/-- USED_MM(MM, f) (R183). -/
def usedByMap (usable : Word) (mm : List MapEntry) (f : Nat) : Bool := mm.any (entryMarks usable f)

/-- What the builder's bit values depend on (R184). -/
structure BuildPlan where
  map : List MapEntry
  usable : Word
  reserveSelf : Bool
  frameCount : Nat
  start : Nat
  bytes : Nat

/-- SELF(s, NB, f) (R184, R186): the frame holds a byte of the bitmap's own storage. -/
def BuildPlan.holdsBitmap (p : BuildPlan) (f : Nat) : Bool :=
  p.reserveSelf && 0 < p.bytes && p.start < frameSize * (f + 1) && frameSize * f < p.start + p.bytes

/-- BITVAL(MM, FC, s, NB, f) (R184): padding, marked by the map, or self-reserved. -/
def BuildPlan.bit (p : BuildPlan) (f : Nat) : Bool :=
  p.frameCount ≤ f || usedByMap p.usable p.map f || p.holdsBitmap f

/-- Bitmap byte j as the builder writes it: bit b is the value of frame 8 j + b (R180, R185). -/
def BuildPlan.byte (p : BuildPlan) (j : Nat) : Byte :=
  (List.range 8).foldl (fun acc b => if p.bit (8 * j + b) then setBit acc b else acc) 0

/-- How many of the frames of byte j the builder writes as free (R180). -/
def BuildPlan.freeIn (p : BuildPlan) (j : Nat) : Nat :=
  ((List.range 8).filter (fun b => !p.bit (8 * j + b))).length

/-- Writes `n` bytes from byte j on, in ascending order, each once, counting the free frames (R180, R185). -/
def buildBytes (p : BuildPlan) : Nat → Nat → Nat → State → Access Nat
  | 0, _, free, s => .ok free s
  | n + 1, j, free, s =>
    match writeByte (s.bitmapAddr j) (p.byte j) s with
    | .fatal f s1 => .fatal f s1
    | .ok _ s1 => buildBytes p n (j + 1) (free + p.freeIn j) s1

/-- The plan of a build from a snapshot, with the storage at `start` (R181, R182, R184). -/
def buildPlan (s : State) (mm : List MapEntry) (start : Nat) : BuildPlan :=
  { map := mm, usable := s.usableType, reserveSelf := s.reserveSelf, frameCount := mapFrames mm, start := start,
    bytes := ceilDiv (mapFrames mm) 8 }

/-- The bitmap registers (R180). -/
def State.setBitmap (s : State) (start bytes frames : Nat) : State :=
  { s with
    bitmap := { base := BitVec.ofNat 64 start, bytes := BitVec.ofNat 64 bytes, frameCount := BitVec.ofNat 64 frames } }

/-- BITMAP_BUILD (R180). -/
def execBitmapBuild (s : State) : Result :=
  match gate .bitmapBuild s with
  | some st => .next (fail st s)
  | none =>
    if s.mmapTooLong then .next (fail .badConfig s)
    else
      match snapshot s with
      | .fatal f s1 => .next (raiseFatal f s1)
      | .ok mm s1 =>
        match take (ceilDiv (mapFrames mm) 8) 1 s1 with
        | .error _ =>
          .next (raiseFatal
            { code := .arenaExhausted, info0 := BitVec.ofNat 64 (ceilDiv (mapFrames mm) 8),
              info1 := s1.arena.cursor, info2 := s1.arena.limit } s1)
        | .ok (start, s2) =>
          let p := buildPlan s mm start
          match buildBytes p p.bytes 0 0 (s2.setBitmap start p.bytes p.frameCount) with
          | .fatal f s3 => .next (raiseFatal f s3)
          | .ok free s3 =>
            .next (finish
              { v0 := BitVec.ofNat 64 start, v1 := BitVec.ofNat 64 p.bytes, v2 := BitVec.ofNat 64 p.frameCount,
                v3 := BitVec.ofNat 64 free }
              { s3 with lifecycle := .built, arenaValid := false })

end Sys2Proof.Machine
end

