-- ==== Sys2Proof/Machine/Codec.lean ====
section
/-! DEFINITION. The page-table entry codec (40_pte_codec.md R125-R129, R141): one meaning for each level of each
operation. They read ARG registers (PTE_RSVD also ADDR_WIDTHS and CTRL), access no memory and change only STATUS and
the RES registers. -/

namespace Sys2Proof.Machine

/-- A codec command whose result is always OK. -/
def codec (i : Instr) (r : Quad) (s : State) : Result :=
  match gate i s with
  | some st => .next (fail st s)
  | none => .next (finish r s)

/-- The results of PTE_NEW (R125). -/
def pteNew (l : Level) (s : State) : Quad := { Quad.zero with v0 := packEntry l s.args.v0 s.args.v1 }

/-- The results of PTE_FLAGS (R126): the flags, and RES1 = 1 because the flag set is always valid. -/
def pteFlags (l : Level) (s : State) : Quad := { Quad.zero with v0 := entryFlags l s.args.v0, v1 := 1 }

/-- The results of PTE_FRAME (R127), the same at every level. -/
def pteFrame (s : State) : Quad := { Quad.zero with v0 := entryFrame s.args.v0 }

/-- The results of PTE_PRESENT (R128), the same at every level. -/
def ptePresent (s : State) : Quad := { Quad.zero with v0 := boolWord (entryPresent s.args.v0) }

/-- The results of PTE_LARGE (R129), the same at both levels. -/
def pteLarge (s : State) : Quad := { Quad.zero with v0 := boolWord (entryLarge s.args.v0) }

/-- PTE_RSVD at a level (R141): the violating bits and whether there are any. -/
def pteRsvd (i : Instr) (l : Level) (s : State) : Result :=
  match gate i s with
  | some st => .next (fail st s)
  | none =>
    if !s.physBitsValid then .next (fail .badConfig s)
    else
      let v := violation l s.args.v0 s.physBits s.nxe
      .next (finish { Quad.zero with v0 := v, v1 := boolWord (v != 0) } s)

/-- PTE_NEW.L1 (R125). -/
def execPteNewL1 (s : State) : Result := codec .pteNewL1 (pteNew .l1 s) s
/-- PTE_NEW.L2 (R125). -/
def execPteNewL2 (s : State) : Result := codec .pteNewL2 (pteNew .l2 s) s
/-- PTE_NEW.L3 (R125). -/
def execPteNewL3 (s : State) : Result := codec .pteNewL3 (pteNew .l3 s) s
/-- PTE_NEW.L4 (R125). -/
def execPteNewL4 (s : State) : Result := codec .pteNewL4 (pteNew .l4 s) s

/-- PTE_FLAGS.L1 (R126). -/
def execPteFlagsL1 (s : State) : Result := codec .pteFlagsL1 (pteFlags .l1 s) s
/-- PTE_FLAGS.L2 (R126). -/
def execPteFlagsL2 (s : State) : Result := codec .pteFlagsL2 (pteFlags .l2 s) s
/-- PTE_FLAGS.L3 (R126). -/
def execPteFlagsL3 (s : State) : Result := codec .pteFlagsL3 (pteFlags .l3 s) s
/-- PTE_FLAGS.L4 (R126). -/
def execPteFlagsL4 (s : State) : Result := codec .pteFlagsL4 (pteFlags .l4 s) s

/-- PTE_FRAME.L1 (R127). -/
def execPteFrameL1 (s : State) : Result := codec .pteFrameL1 (pteFrame s) s
/-- PTE_FRAME.L2 (R127). -/
def execPteFrameL2 (s : State) : Result := codec .pteFrameL2 (pteFrame s) s
/-- PTE_FRAME.L3 (R127). -/
def execPteFrameL3 (s : State) : Result := codec .pteFrameL3 (pteFrame s) s
/-- PTE_FRAME.L4 (R127). -/
def execPteFrameL4 (s : State) : Result := codec .pteFrameL4 (pteFrame s) s

/-- PTE_PRESENT.L1 (R128). -/
def execPtePresentL1 (s : State) : Result := codec .ptePresentL1 (ptePresent s) s
/-- PTE_PRESENT.L2 (R128). -/
def execPtePresentL2 (s : State) : Result := codec .ptePresentL2 (ptePresent s) s
/-- PTE_PRESENT.L3 (R128). -/
def execPtePresentL3 (s : State) : Result := codec .ptePresentL3 (ptePresent s) s
/-- PTE_PRESENT.L4 (R128). -/
def execPtePresentL4 (s : State) : Result := codec .ptePresentL4 (ptePresent s) s

/-- PTE_LARGE.L2 (R129). -/
def execPteLargeL2 (s : State) : Result := codec .pteLargeL2 (pteLarge s) s
/-- PTE_LARGE.L3 (R129). -/
def execPteLargeL3 (s : State) : Result := codec .pteLargeL3 (pteLarge s) s

/-- PTE_RSVD.L1 (R141). -/
def execPteRsvdL1 (s : State) : Result := pteRsvd .pteRsvdL1 .l1 s
/-- PTE_RSVD.L2 (R141). -/
def execPteRsvdL2 (s : State) : Result := pteRsvd .pteRsvdL2 .l2 s
/-- PTE_RSVD.L3 (R141). -/
def execPteRsvdL3 (s : State) : Result := pteRsvd .pteRsvdL3 .l3 s
/-- PTE_RSVD.L4 (R141). -/
def execPteRsvdL4 (s : State) : Result := pteRsvd .pteRsvdL4 .l4 s

end Sys2Proof.Machine
end

