-- ==== Sys2Proof/Machine/Control.lean ====
section
/-! DEFINITION. Register access and reset (45_control.md R270-R276). -/

namespace Sys2Proof.Machine

/-- CSR_READ (R270), executed while halted as well (60_exceptions.md R311). The value is read before STATUS takes the
command's own code (10_state.md R29). -/
def execCsrRead (s : State) : Result :=
  match gate .csrRead s with
  | some st => .next (fail st s)
  | none =>
    match csrOf s.args.v0 with
    | none => .next (fail .badAccess s)
    | some c => .next (finish { Quad.zero with v0 := s.readCsr c } s)

/-- CSR_WRITE (R271): the register number and its access type first, then the lifecycle (60_exceptions.md R313), then
the write, whose result is read back. -/
def execCsrWrite (s : State) : Result :=
  match gate .csrWrite s with
  | some st => .next (fail st s)
  | none =>
    match csrOf s.args.v0 with
    | none => .next (fail .badAccess s)
    | some c =>
      match csrAccess c with
      | .ro => .next (fail .badAccess s)
      | .rw => .next (finish { Quad.zero with v0 := (s.writeCsr c s.args.v1).readCsr c } (s.writeCsr c s.args.v1))
      | .uninitOnly =>
        if s.lifecycle ≠ .uninit then .next (fail .badState s)
        else .next (finish { Quad.zero with v0 := (s.writeCsr c s.args.v1).readCsr c } (s.writeCsr c s.args.v1))

/-- RESET (R276), executed in every state: the reset state, with RES = 0 and STATUS = OK. -/
def execReset (s : State) : Result :=
  match gate .reset s with
  | some st => .next (fail st s)
  | none => .next (finish .zero (resetBlock s))

end Sys2Proof.Machine
end

