-- ==== Sys2Proof/Machine/Frame.lean ====
section
/-! DEFINITION. The frame allocator and its free-bit scan (44_frame_allocator.md R240-R247). -/

namespace Sys2Proof.Machine

/-- The first zero bit of bitmap byte j that stands for a frame below FRAME_COUNT (R240). -/
def firstFree (frameCount j : Nat) (b : Byte) : Option Nat :=
  (List.range 8).find? (fun k => !b.getLsbD k && decide (8 * j + k < frameCount))

/-- The scan of FRAME_ALLOC (R240): `n` bytes from byte j on, ascending. A byte of all ones is skipped; the first
free bit is set and its frame returned. -/
def scanFree : Nat → Nat → State → Access (Option Nat)
  | 0, _, s => .ok none s
  | n + 1, j, s =>
    match readByte (s.bitmapAddr j) s with
    | .fatal e s1 => .fatal e s1
    | .ok b s1 =>
      if b = 0xFF then scanFree n (j + 1) s1
      else
        match firstFree s.bitmap.frameCount.toNat j b with
        | none => scanFree n (j + 1) s1
        | some k =>
          match writeByte (s.bitmapAddr j) (setBit b k) s1 with
          | .fatal e s2 => .fatal e s2
          | .ok _ s2 => .ok (some (8 * j + k)) s2

/-- The physical start of frame f as RES0 reports it (R240): 4096 f. A frame at or beyond 2^52 starts where no 64-bit
value reaches, and the spec states no result: a free value (DESIGN CHOICE, log entry 14). -/
def frameStart (f : Nat) : Word := if f < 2 ^ 52 then BitVec.ofNat 64 (frameSize * f) else Config.startBeyond f

/-- FRAME_ALLOC (R240). LIFECYCLE moves BUILT -> INUSE before the scan, so it is INUSE also after a
fatal fault of the scan (R309, log entry 10). -/
def execFrameAlloc (s : State) : Result :=
  match gate .frameAlloc s with
  | some st => .next (fail st s)
  | none =>
    match scanFree s.bitmap.bytes.toNat 0 s.enterUse with
    | .fatal e s1 => .next (raiseFatal e s1)
    | .ok none s1 => .next (fail .outOfMemory s1)
    | .ok (some f) s1 =>
      .next (finish
        { v0 := frameStart f, v1 := pageSizeCode .kib4, v2 := BitVec.ofNat 64 f, v3 := 0 } s1)

/-- The clearing loop of FRAME_FREE (R242): `n` frames from frame f on, ascending, counting the bits cleared. -/
def freeFrames : Nat → Nat → Nat → State → Access Nat
  | 0, _, cleared, s => .ok cleared s
  | n + 1, f, cleared, s =>
    match readByte (s.frameByteAddr f) s with
    | .fatal e s1 => .fatal e s1
    | .ok b s1 =>
      if b.getLsbD (f % 8) then
        match writeByte (s.frameByteAddr f) (clearBit b (f % 8)) s1 with
        | .fatal e s2 => .fatal e s2
        | .ok _ s2 => freeFrames n (f + 1) (cleared + 1) s2
      else freeFrames n (f + 1) cleared s1

/-- FRAME_FREE (R242): the size code, then the alignment, then the range, then LIFECYCLE and the clearing loop, so
LIFECYCLE is INUSE also after a fatal fault of the loop (R309, log entry 10). -/
def execFrameFree (s : State) : Result :=
  match gate .frameFree s with
  | some st => .next (fail st s)
  | none =>
    match pageSizeOf s.args.v1 with
    | none => .next (fail .badRange s)
    | some sz =>
      if s.args.v0.toNat % (frameSize * pageFrames sz) ≠ 0 then .next (fail .invalidAlignment s)
      else if s.bitmap.frameCount.toNat < s.args.v0.toNat / frameSize + pageFrames sz then .next (fail .badRange s)
      else
        match freeFrames (pageFrames sz) (s.args.v0.toNat / frameSize) 0 s.enterUse with
        | .fatal e s1 => .next (raiseFatal e s1)
        | .ok cleared s1 => .next (finish { Quad.zero with v0 := BitVec.ofNat 64 cleared } s1)

/-- FRAME_TEST (R243). -/
def execFrameTest (s : State) : Result :=
  match gate .frameTest s with
  | some st => .next (fail st s)
  | none =>
    if s.bitmap.frameCount.toNat ≤ s.args.v0.toNat then .next (fail .badRange s)
    else
      match readByte (s.frameByteAddr s.args.v0.toNat) s with
      | .fatal e s1 => .next (raiseFatal e s1)
      | .ok b s1 => .next (finish { Quad.zero with v0 := boolWord (b.getLsbD (s.args.v0.toNat % 8)) } s1)

/-- The free frames of bitmap byte j: zero bits of frames below FRAME_COUNT (R244). -/
def freeInByte (frameCount j : Nat) (b : Byte) : Nat :=
  ((List.range 8).filter (fun k => !b.getLsbD k && decide (8 * j + k < frameCount))).length

/-- The counting loop of FREE_COUNT (R244): `n` bytes from byte j on, ascending, one read each. -/
def countFree : Nat → Nat → Nat → State → Access Nat
  | 0, _, free, s => .ok free s
  | n + 1, j, free, s =>
    match readByte (s.bitmapAddr j) s with
    | .fatal e s1 => .fatal e s1
    | .ok b s1 => countFree n (j + 1) (free + freeInByte s.bitmap.frameCount.toNat j b) s1

/-- FREE_COUNT (R244). -/
def execFreeCount (s : State) : Result :=
  match gate .freeCount s with
  | some st => .next (fail st s)
  | none =>
    match countFree s.bitmap.bytes.toNat 0 0 s with
    | .fatal e s1 => .next (raiseFatal e s1)
    | .ok free s1 => .next (finish { Quad.zero with v0 := BitVec.ofNat 64 free, v1 := s.bitmap.frameCount } s1)

/-- BITMAP_FREEZE (R245). -/
def execBitmapFreeze (s : State) : Result :=
  match gate .bitmapFreeze s with
  | some st => .next (fail st s)
  | none => .next (finish .zero { s with lifecycle := .frozen })

end Sys2Proof.Machine
end

