-- ==== Sys2Proof/Machine/Walk.lean ====
section
/-! DEFINITION. The page walker (43_page_walker.md R200-R219). -/

namespace Sys2Proof.Machine

/-- A record of the walk (R200): virtual start, physical start, page size. -/
structure WalkRecord where
  va : Word
  pa : Word
  size : PageSize
deriving DecidableEq, Repr

/-- TBL[L]. -/
def WalkPos.tbl (p : WalkPos) : Level → Word
  | .l1 => p.tbl1
  | .l2 => p.tbl2
  | .l3 => p.tbl3
  | .l4 => p.tbl4

/-- IDX[L]. -/
def WalkPos.idx (p : WalkPos) : Level → Fin 513
  | .l1 => p.idx1
  | .l2 => p.idx2
  | .l3 => p.idx3
  | .l4 => p.idx4

/-- The next index. An index of 512 stays: the walk never steps past an exhausted table. -/
def idxSucc (i : Fin 513) : Fin 513 := if h : i.val < 512 then ⟨i.val + 1, by omega⟩ else i

/-- IDX[L] <- IDX[L] + 1. -/
def WalkPos.bump (p : WalkPos) : Level → WalkPos
  | .l1 => { p with idx1 := idxSucc p.idx1 }
  | .l2 => { p with idx2 := idxSucc p.idx2 }
  | .l3 => { p with idx3 := idxSucc p.idx3 }
  | .l4 => { p with idx4 := idxSucc p.idx4 }

/-- The physical address of the entry at the position (R204): TBL[L] + 8 IDX[L]. -/
def WalkPos.entryAddr (p : WalkPos) (l : Level) : Word := p.tbl l + BitVec.ofNat 64 (8 * (p.idx l).val)

/-- The position INIT sets (R206): WLVL 4, the root table, every index 0. -/
def WalkPos.init (cr3 : Word) : WalkPos := { WalkPos.zero with tbl4 := rootTable cr3 }

/-- RESERVED_BIT (R205, R206, 60_exceptions.md R305). -/
def reservedBit (level : Nat) (addr value : Word) : FatalFault :=
  { code := .reservedBit, info0 := BitVec.ofNat 64 level, info1 := addr, info2 := value }

/-- UNSUPPORTED_PAGE_SIZE of a 1 GiB page (R208, 60_exceptions.md R305). -/
def unsupportedPage (addr value : Word) : FatalFault :=
  { code := .unsupportedPageSize, info0 := 3, info1 := addr, info2 := value }

/-- The outcome of one iteration of ADVANCE's loop (R204). -/
inductive WalkIter where
  /-- Go on at the level and position given. -/
  | again (l : Level) (p : WalkPos) (s : State)
  /-- A terminal mapping, the position just past it. -/
  | record (r : WalkRecord) (l : Level) (p : WalkPos) (s : State)
  /-- WLVL has reached 5: the hierarchy is exhausted. -/
  | exhausted (s : State)
  /-- A fatal fault, the position where it stood. -/
  | fatal (f : FatalFault) (s : State)

/-- IDX[L] = 512 (R204): pop to the level above, past the entry that led here, or end the walk at the top. -/
def popTable (l : Level) (p : WalkPos) (s : State) : WalkIter :=
  match l with
  | .l1 => .again .l2 (p.bump .l2) s
  | .l2 => .again .l3 (p.bump .l3) s
  | .l3 => .again .l4 (p.bump .l4) s
  | .l4 => .exhausted { s with walker := .done p }

/-- A terminal mapping at level l (R204): the record, and the position just past the entry. -/
def yieldRecord (r : WalkRecord) (l : Level) (p : WalkPos) (s : State) : WalkIter :=
  .record r l (p.bump l) { s with walker := .active l (p.bump l) }

/-- A present entry without reserved bits (R204, R207, R208): a 4 KiB leaf, a 2 MiB page, a 1 GiB page that the
block refuses, or a pointer to the next table. -/
def followEntry (l : Level) (p : WalkPos) (e : Word) (s : State) : WalkIter :=
  match l with
  | .l1 =>
    yieldRecord { va := virtualAddress p.idx4 p.idx3 p.idx2 p.idx1, pa := e &&& addrMask, size := .kib4 } .l1 p s
  | .l2 =>
    if entryLarge e then
      yieldRecord { va := virtualAddress p.idx4 p.idx3 p.idx2 0, pa := start2M e, size := .mib2 } .l2 p s
    else .again .l1 { p with tbl1 := e &&& addrMask, idx1 := 0 } s
  | .l3 =>
    if entryLarge e then .fatal (unsupportedPage (p.entryAddr .l3) e) { s with walker := .active .l3 p }
    else .again .l2 { p with tbl2 := e &&& addrMask, idx2 := 0 } s
  | .l4 => .again .l3 { p with tbl3 := e &&& addrMask, idx3 := 0 } s

/-- What ADVANCE does with the entry it read (R204): skip it, refuse its reserved bits (R205), or follow it. -/
def visitEntry (l : Level) (p : WalkPos) (e : Word) (s : State) : WalkIter :=
  if !entryPresent e then .again l (p.bump l) s
  else if violation l e s.physBits s.nxe != 0 then
    .fatal (reservedBit (levelNumber l) (p.entryAddr l) e) { s with walker := .active l p }
  else followEntry l p e s

/-- One iteration of ADVANCE's loop (R204) at WLVL = l. WALK registers are written where the iteration ends the
command or yields a record; a fault leaves the position at the entry (R204, R309). -/
def advanceOnce (l : Level) (p : WalkPos) (s : State) : WalkIter :=
  if (p.idx l).val = 512 then popTable l p s
  else
    match readWord (s.phys (p.entryAddr l)) s with
    | .fatal f s1 => .fatal f { s1 with walker := .active l p }
    | .ok e s1 => visitEntry l p e s1

/-- What ADVANCE returns (R204). -/
inductive Advance where
  | record (r : WalkRecord) (l : Level) (p : WalkPos) (s : State)
  | exhausted (s : State)
  | fatal (f : FatalFault) (s : State)
  /-- The bound of R217 was used up, which no walk does (log entry 13). -/
  | unfinished

/-- ADVANCE (R204): the loop, at most `n` iterations of it. -/
def advance : Nat → Level → WalkPos → State → Advance
  | 0, _, _, _ => .unfinished
  | n + 1, l, p, s =>
    match advanceOnce l p s with
    | .again l' p' s' => advance n l' p' s'
    | .record r l' p' s' => .record r l' p' s'
    | .exhausted s' => .exhausted s'
    | .fatal f s' => .fatal f s'

/-- More iterations than any walk has (R217): a full walk reads at most 512 + 512^2 + 512^3 + 512^4 entries and pops
each table it reads once, which is less than 2^37. -/
def walkFuel : Nat := 2 ^ 37

/-- INIT(cr3) (R206): the walker at the root, or the fatal fault of a reserved bit of the CR3 value. -/
def initWalk (cr3 : Word) (s : State) : Access Unit :=
  if cr3 &&& physMask s.physBits != 0 then .fatal (reservedBit 0 0 cr3) s
  else .ok () { s with walker := .active .l4 (.init cr3) }

/-- WALK_START (R212). -/
def execWalkStart (s : State) : Result :=
  match gate .walkStart s with
  | some st => .next (fail st s)
  | none =>
    if !s.physBitsValid then .next (fail .badConfig s)
    else
      match initWalk s.args.v0 s with
      | .fatal f s1 => .next (raiseFatal f s1)
      | .ok _ s1 => .next (finish { Quad.zero with v0 := rootTable s.args.v0 } s1)

/-- WALK_NEXT (R213). -/
def execWalkNext (s : State) : Result :=
  match gate .walkNext s with
  | some st => .next (fail st s)
  | none =>
    match s.walker with
    | .idle => .next (fail .walkIdle s)
    | .done _ => if !s.physBitsValid then .next (fail .badConfig s) else .next (finish .zero s)
    | .active l p =>
      if !s.physBitsValid then .next (fail .badConfig s)
      else
        match advance walkFuel l p s with
        | .record r _ _ s1 => .next (finish { v0 := r.va, v1 := r.pa, v2 := pageSizeCode r.size, v3 := 1 } s1)
        | .exhausted s1 => .next (finish .zero s1)
        | .fatal f s1 => .next (raiseFatal f s1)
        | .unfinished => .fault .walkBound

/-- The counts of WALK_MARK and WALK_CHECK (R215, R216): bits changed or discrepancies, frame occurrences,
occurrences at or beyond FRAME_COUNT, records. -/
structure Tally where
  hits : Nat
  total : Nat
  outOfRange : Nat
  records : Nat
deriving DecidableEq, Repr

/-- The counts before a walk. -/
def Tally.zero : Tally := { hits := 0, total := 0, outOfRange := 0, records := 0 }

/-- One more frame occurrence. -/
def Tally.seen (t : Tally) : Tally := { t with total := t.total + 1 }

/-- The first frame of a record (R214). -/
def WalkRecord.firstFrame (r : WalkRecord) : Nat := r.pa.toNat / frameSize

/-- WALK_MARK's visit of frame f (R215): its bit is read, and set if it was 0. -/
def markFrame (f : Nat) (t : Tally) (s : State) : Access Tally :=
  if s.bitmap.frameCount.toNat ≤ f then .ok { t.seen with outOfRange := t.outOfRange + 1 } s
  else
    match readByte (s.frameByteAddr f) s with
    | .fatal e s1 => .fatal e s1
    | .ok b s1 =>
      if b.getLsbD (f % 8) then .ok t.seen s1
      else
        match writeByte (s.frameByteAddr f) (setBit b (f % 8)) s1 with
        | .fatal e s2 => .fatal e s2
        | .ok _ s2 => .ok { t.seen with hits := t.hits + 1 } s2

/-- WALK_CHECK's visit of frame f (R216): its bit is read, and counted if it is 0. -/
def checkFrame (f : Nat) (t : Tally) (s : State) : Access Tally :=
  if s.bitmap.frameCount.toNat ≤ f then .ok { t.seen with outOfRange := t.outOfRange + 1 } s
  else
    match readByte (s.frameByteAddr f) s with
    | .fatal e s1 => .fatal e s1
    | .ok b s1 => .ok (if b.getLsbD (f % 8) then t.seen else { t.seen with hits := t.hits + 1 }) s1

/-- Visits `n` frames from frame f on, ascending (R214). -/
def visitFrames (visit : Nat → Tally → State → Access Tally) : Nat → Nat → Tally → State → Access Tally
  | 0, _, t, s => .ok t s
  | n + 1, f, t, s =>
    match visit f t s with
    | .fatal e s1 => .fatal e s1
    | .ok t1 s1 => visitFrames visit n (f + 1) t1 s1

/-- The outcome of a whole walk. -/
inductive WalkRun where
  | done (t : Tally) (s : State)
  | fatal (f : FatalFault) (s : State)
  /-- The bound of R217 was used up, which no walk does (log entry 13). -/
  | unfinished

/-- The loop of WALK_MARK and WALK_CHECK (R215, R216), at most `n` records of it. -/
def walkAll (visit : Nat → Tally → State → Access Tally) : Nat → Level → WalkPos → Tally → State → WalkRun
  | 0, _, _, _, _ => .unfinished
  | n + 1, l, p, t, s =>
    match advance walkFuel l p s with
    | .unfinished => .unfinished
    | .fatal f s1 => .fatal f s1
    | .exhausted s1 => .done t s1
    | .record r l' p' s1 =>
      match visitFrames visit (pageFrames r.size) r.firstFrame { t with records := t.records + 1 } s1 with
      | .fatal f s2 => .fatal f s2
      | .ok t2 s2 => walkAll visit n l' p' t2 s2

/-- The common part of WALK_MARK and WALK_CHECK (R215, R216): the PHYS_BITS check, INIT, the walk, the counts. -/
def walkWhole (visit : Nat → Tally → State → Access Tally) (s : State) : Result :=
  if !s.physBitsValid then .next (fail .badConfig s)
  else
    match initWalk s.args.v0 s with
    | .fatal f s1 => .next (raiseFatal f s1)
    | .ok _ s1 =>
      match walkAll visit walkFuel .l4 (.init s.args.v0) .zero s1 with
      | .unfinished => .fault .walkBound
      | .fatal f s2 => .next (raiseFatal f s2)
      | .done t s2 =>
        .next (finish
          { v0 := BitVec.ofNat 64 t.hits, v1 := BitVec.ofNat 64 t.total, v2 := BitVec.ofNat 64 t.outOfRange,
            v3 := BitVec.ofNat 64 t.records } s2)

/-- WALK_MARK (R215). -/
def execWalkMark (s : State) : Result :=
  match gate .walkMark s with
  | some st => .next (fail st s)
  | none => walkWhole markFrame s

/-- WALK_CHECK (R216). -/
def execWalkCheck (s : State) : Result :=
  match gate .walkCheck s with
  | some st => .next (fail st s)
  | none => walkWhole checkFrame s

end Sys2Proof.Machine
end

