-- ==== Sys2Proof/Machine/Dispatch.lean ====
section
/-! DEFINITION. One arm for each command of the opcode table (30_encoding.md R94, R95). -/

namespace Sys2Proof.Machine

def exec (i : Instr) (s : State) : Host.Outcome State Fault Refusal :=
  match i with
  | .pteNewL1 => Sys2Proof.Machine.execPteNewL1 s
  | .pteNewL2 => Sys2Proof.Machine.execPteNewL2 s
  | .pteNewL3 => Sys2Proof.Machine.execPteNewL3 s
  | .pteNewL4 => Sys2Proof.Machine.execPteNewL4 s
  | .pteFlagsL1 => Sys2Proof.Machine.execPteFlagsL1 s
  | .pteFlagsL2 => Sys2Proof.Machine.execPteFlagsL2 s
  | .pteFlagsL3 => Sys2Proof.Machine.execPteFlagsL3 s
  | .pteFlagsL4 => Sys2Proof.Machine.execPteFlagsL4 s
  | .pteFrameL1 => Sys2Proof.Machine.execPteFrameL1 s
  | .pteFrameL2 => Sys2Proof.Machine.execPteFrameL2 s
  | .pteFrameL3 => Sys2Proof.Machine.execPteFrameL3 s
  | .pteFrameL4 => Sys2Proof.Machine.execPteFrameL4 s
  | .ptePresentL1 => Sys2Proof.Machine.execPtePresentL1 s
  | .ptePresentL2 => Sys2Proof.Machine.execPtePresentL2 s
  | .ptePresentL3 => Sys2Proof.Machine.execPtePresentL3 s
  | .ptePresentL4 => Sys2Proof.Machine.execPtePresentL4 s
  | .pteLargeL2 => Sys2Proof.Machine.execPteLargeL2 s
  | .pteLargeL3 => Sys2Proof.Machine.execPteLargeL3 s
  | .pteRsvdL1 => Sys2Proof.Machine.execPteRsvdL1 s
  | .pteRsvdL2 => Sys2Proof.Machine.execPteRsvdL2 s
  | .pteRsvdL3 => Sys2Proof.Machine.execPteRsvdL3 s
  | .pteRsvdL4 => Sys2Proof.Machine.execPteRsvdL4 s
  | .bitx => Sys2Proof.Machine.execBitx s
  | .biti => Sys2Proof.Machine.execBiti s
  | .arenaFind => Sys2Proof.Machine.execArenaFind s
  | .arenaAlloc => Sys2Proof.Machine.execArenaAlloc s
  | .arenaFree => Sys2Proof.Machine.execArenaFree s
  | .bitmapBuild => Sys2Proof.Machine.execBitmapBuild s
  | .walkStart => Sys2Proof.Machine.execWalkStart s
  | .walkNext => Sys2Proof.Machine.execWalkNext s
  | .walkMark => Sys2Proof.Machine.execWalkMark s
  | .walkCheck => Sys2Proof.Machine.execWalkCheck s
  | .frameAlloc => Sys2Proof.Machine.execFrameAlloc s
  | .frameFree => Sys2Proof.Machine.execFrameFree s
  | .frameTest => Sys2Proof.Machine.execFrameTest s
  | .freeCount => Sys2Proof.Machine.execFreeCount s
  | .bitmapFreeze => Sys2Proof.Machine.execBitmapFreeze s
  | .csrRead => Sys2Proof.Machine.execCsrRead s
  | .csrWrite => Sys2Proof.Machine.execCsrWrite s
  | .reset => Sys2Proof.Machine.execReset s

end Sys2Proof.Machine
end

