-- ==== Sys2Proof/Machine/Step.lean ====
section
/-! DEFINITION. One step of the machine: the block takes the oldest waiting event (10_state.md R20, R21) and, for a
command, decodes and executes it. -/

namespace Sys2Proof.Machine

/-- One step. A command word is decoded and executed (30_encoding.md R97); an illegal one is rejected with a status
(R96, 60_exceptions.md R313). With no event waiting the block does nothing: DESIGN CHOICE, log entry 2. -/
def step (s : State) : Host.Outcome State Fault Refusal :=
  match arrive s with
  | .nothing => .next s
  | .happened s1 => .next s1
  | .word cmd s1 =>
    match decode cmd with
    | .ok i => exec i s1
    | .error _ => .next (rejectWord s1)

/-- The state whose very next step runs the command whose bits are `w`: the host's request with that word waits first
on the command port, with the operands ARG0..ARG3 (and the port's answers) as they stand (log entry 1). -/
def State.withFetchWord (s : State) (nbits w : Nat) : State :=
  { s with inputs := .command (requestOf (BitVec.ofNat 32 (w % 2 ^ nbits)) s) :: s.inputs }

end Sys2Proof.Machine
end

