-- ==== Sys2Proof/Machine/Assembler.lean ====
section
/-! DEFINITION. The textual syntax of commands and responses and the pseudo-instructions (30_encoding.md R98, R99).
Nothing in the step depends on this file. -/

namespace Sys2Proof.Machine

/-- The mnemonic of a command, `.Ln` included (R95, R98). -/
def mnemonicOf : Instr → String
  | .pteNewL1 => "PTE_NEW.L1"
  | .pteNewL2 => "PTE_NEW.L2"
  | .pteNewL3 => "PTE_NEW.L3"
  | .pteNewL4 => "PTE_NEW.L4"
  | .pteFlagsL1 => "PTE_FLAGS.L1"
  | .pteFlagsL2 => "PTE_FLAGS.L2"
  | .pteFlagsL3 => "PTE_FLAGS.L3"
  | .pteFlagsL4 => "PTE_FLAGS.L4"
  | .pteFrameL1 => "PTE_FRAME.L1"
  | .pteFrameL2 => "PTE_FRAME.L2"
  | .pteFrameL3 => "PTE_FRAME.L3"
  | .pteFrameL4 => "PTE_FRAME.L4"
  | .ptePresentL1 => "PTE_PRESENT.L1"
  | .ptePresentL2 => "PTE_PRESENT.L2"
  | .ptePresentL3 => "PTE_PRESENT.L3"
  | .ptePresentL4 => "PTE_PRESENT.L4"
  | .pteLargeL2 => "PTE_LARGE.L2"
  | .pteLargeL3 => "PTE_LARGE.L3"
  | .pteRsvdL1 => "PTE_RSVD.L1"
  | .pteRsvdL2 => "PTE_RSVD.L2"
  | .pteRsvdL3 => "PTE_RSVD.L3"
  | .pteRsvdL4 => "PTE_RSVD.L4"
  | .bitx => "BITX"
  | .biti => "BITI"
  | .arenaFind => "ARENA_FIND"
  | .arenaAlloc => "ARENA_ALLOC"
  | .arenaFree => "ARENA_FREE"
  | .bitmapBuild => "BITMAP_BUILD"
  | .walkStart => "WALK_START"
  | .walkNext => "WALK_NEXT"
  | .walkMark => "WALK_MARK"
  | .walkCheck => "WALK_CHECK"
  | .frameAlloc => "FRAME_ALLOC"
  | .frameFree => "FRAME_FREE"
  | .frameTest => "FRAME_TEST"
  | .freeCount => "FREE_COUNT"
  | .bitmapFreeze => "BITMAP_FREEZE"
  | .csrRead => "CSR_READ"
  | .csrWrite => "CSR_WRITE"
  | .reset => "RESET"

/-- Every command, in the order of R95. -/
def allInstrs : List Instr :=
  [.pteNewL1, .pteNewL2, .pteNewL3, .pteNewL4, .pteFlagsL1, .pteFlagsL2, .pteFlagsL3, .pteFlagsL4,
   .pteFrameL1, .pteFrameL2, .pteFrameL3, .pteFrameL4, .ptePresentL1, .ptePresentL2, .ptePresentL3, .ptePresentL4,
   .pteLargeL2, .pteLargeL3, .pteRsvdL1, .pteRsvdL2, .pteRsvdL3, .pteRsvdL4, .bitx, .biti,
   .arenaFind, .arenaAlloc, .arenaFree, .bitmapBuild, .walkStart, .walkNext, .walkMark, .walkCheck,
   .frameAlloc, .frameFree, .frameTest, .freeCount, .bitmapFreeze, .csrRead, .csrWrite, .reset]

/-- The name of a register (10_state.md R28). -/
def csrName : Csr → String
  | .status => "STATUS"
  | .state => "STATE"
  | .fault => "FAULT"
  | .faultInfo0 => "FAULT_INFO0"
  | .faultInfo1 => "FAULT_INFO1"
  | .faultInfo2 => "FAULT_INFO2"
  | .ctrl => "CTRL"
  | .dmapOffset => "DMAP_OFFSET"
  | .mmapBase => "MMAP_BASE"
  | .mmapCount => "MMAP_COUNT"
  | .addrWidths => "ADDR_WIDTHS"
  | .usableType => "USABLE_TYPE"
  | .arenaBase => "ARENA_BASE"
  | .arenaEnd => "ARENA_END"
  | .arenaCursor => "ARENA_CURSOR"
  | .bitmapBase => "BITMAP_BASE"
  | .bitmapBytes => "BITMAP_BYTES"
  | .frameCount => "FRAME_COUNT"
  | .walkRoot => "WALK_ROOT"
  | .walkPos => "WALK_POS"
  | .walkTbl3 => "WALK_TBL3"
  | .walkTbl2 => "WALK_TBL2"
  | .walkTbl1 => "WALK_TBL1"

/-- The name of a status (60_exceptions.md R300). -/
def statusName : Status → String
  | .ok => "OK"
  | .invalidAlignment => "INVALID_ALIGNMENT"
  | .alignmentNotPossible => "ALIGNMENT_NOT_POSSIBLE"
  | .outOfSpace => "OUT_OF_SPACE"
  | .outOfMemory => "OUT_OF_MEMORY"
  | .illegalCmd => "ILLEGAL_CMD"
  | .badState => "BAD_STATE"
  | .badRange => "BAD_RANGE"
  | .walkIdle => "WALK_IDLE"
  | .halted => "HALTED"
  | .badAccess => "BAD_ACCESS"
  | .badConfig => "BAD_CONFIG"
  | .fatal => "FATAL"

/-- The command a mnemonic names. -/
def instrNamed (name : String) : Option Instr := allInstrs.find? (fun i => mnemonicOf i == name)

/-- The register a name stands for (R98). -/
def csrNamed (name : String) : Option Csr := allCsrs.find? (fun c => csrName c == name)

/-- The value of a digit in a base up to 16. -/
def digitValue (base : Nat) (c : Char) : Option Nat :=
  let v :=
    if '0' ≤ c ∧ c ≤ '9' then c.toNat - '0'.toNat
    else if 'a' ≤ c ∧ c ≤ 'f' then c.toNat - 'a'.toNat + 10
    else if 'A' ≤ c ∧ c ≤ 'F' then c.toNat - 'A'.toNat + 10
    else 16
  if v < base then some v else none

/-- The number a list of digits writes; `_` separates digits (00_scope.md R12). -/
def digitsValue (base : Nat) : List Char → Nat → Option Nat
  | [], acc => some acc
  | '_' :: rest, acc => digitsValue base rest acc
  | c :: rest, acc =>
    match digitValue base c with
    | none => none
    | some d => digitsValue base rest (acc * base + d)

/-- An unsigned integer literal below 2^64, decimal or `0x` hexadecimal (R98). -/
def literalValue (cs : List Char) : Option Word :=
  let v :=
    match cs with
    | [] => none
    | '0' :: 'x' :: [] => none
    | '0' :: 'x' :: digits => digitsValue 16 digits 0
    | digits => digitsValue 10 digits 0
  match v with
  | none => none
  | some n => if n < 2 ^ 64 then some (BitVec.ofNat 64 n) else none

/-- An operand: a literal, or a register's name standing for its number (R98). -/
def operandValue (cs : List Char) : Option Word :=
  match csrNamed (String.ofList cs) with
  | some c => some (BitVec.ofNat 64 (csrNumber c))
  | none => literalValue cs

/-- The characters before the comment sign `;` (R98). -/
def beforeComment (cs : List Char) : List Char := cs.takeWhile (· ≠ ';')

/-- The list without the blanks at both ends. -/
def trimBlanks (cs : List Char) : List Char := ((cs.dropWhile (· = ' ')).reverse.dropWhile (· = ' ')).reverse

/-- The pieces between commas. -/
def splitCommas : List Char → List Char → List (List Char)
  | acc, [] => [acc.reverse]
  | acc, ',' :: rest => acc.reverse :: splitCommas [] rest
  | acc, c :: rest => splitCommas (c :: acc) rest

/-- The operands after a mnemonic, none when nothing follows it. -/
def operandList (cs : List Char) : Option (List Word) :=
  if trimBlanks cs = [] then some [] else (splitCommas [] cs).mapM (fun p => operandValue (trimBlanks p))

/-- Up to four operands in ARG0..ARG3; an omitted operand is 0 (R98). -/
def operandQuad : List Word → Option Quad
  | [] => some .zero
  | [a] => some { Quad.zero with v0 := a }
  | [a, b] => some { Quad.zero with v0 := a, v1 := b }
  | [a, b, c] => some { v0 := a, v1 := b, v2 := c, v3 := 0 }
  | [a, b, c, d] => some { v0 := a, v1 := b, v2 := c, v3 := d }
  | _ => none

/-- The request of a command with its operands, the port answering normally. -/
def requestFor (i : Instr) (args : Quad) : Request := { cmd := encode i, args := args, answers := [] }

/-- The command a name stands for: a mnemonic, or a pseudo-instruction that is one command (R99). -/
def commandNamed (name : String) : Option Instr :=
  if name == "CFG" then some .csrWrite else if name == "RD" then some .csrRead else instrNamed name

/-- A line of R98's syntax as the request it stands for; `none` if it is not of that syntax. -/
def assemble (line : String) : Option Request :=
  let cs := trimBlanks (beforeComment line.toList)
  match commandNamed (String.ofList (cs.takeWhile (· ≠ ' '))), operandList (cs.dropWhile (· ≠ ' ')) with
  | some i, some ops => (operandQuad ops).map (requestFor i)
  | _, _ => none

/-- A response in R98's syntax, all four results written. -/
def renderResponse (s : State) : String :=
  "-> " ++ statusName s.status ++ ", RES0=" ++ toString s.res.v0.toNat ++ ", RES1=" ++ toString s.res.v1.toNat
    ++ ", RES2=" ++ toString s.res.v2.toNat ++ ", RES3=" ++ toString s.res.v3.toNat

/-- The step of a host that issues one command next. -/
def issue (i : Instr) (args : Quad) (s : State) : Result :=
  step { s with inputs := .command (requestFor i args) :: s.inputs }

/-- The host loop of WALK_ALL after WALK_START (R99): WALK_NEXT until a response has RES3 = 0 or a status other than
OK, at most `n` times, keeping the responses, the newest first. -/
def walkAllLoop : Nat → List Quad → State → Result × List Quad
  | 0, acc, s => (.next s, acc)
  | n + 1, acc, s =>
    match issue .walkNext .zero s with
    | .next t => if t.res.v3 = 0 ∨ t.status ≠ .ok then (.next t, acc) else walkAllLoop n (t.res :: acc) t
    | .fault f => (.fault f, acc)
    | .refused r => (.refused r, acc)

/-- WALK_ALL v (R99): WALK_START v, then the loop. DESIGN CHOICE (log entry 16): when WALK_START does not end with OK,
no WALK_NEXT is issued; R99 does not say whether its stop condition covers the response to WALK_START. -/
def walkAllHost (n : Nat) (v : Word) (s : State) : Result × List Quad :=
  match issue .walkStart { Quad.zero with v0 := v } s with
  | .next t => if t.status = .ok then walkAllLoop n [] t else (.next t, [])
  | .fault f => (.fault f, [])
  | .refused r => (.refused r, [])

end Sys2Proof.Machine
end

