-- ==== Sys2Proof/Safety.lean ====
section
/-! DEFINITION. What counts as a safe state and a safe run, in the terms the statements use: the invariant of the
block, the host duties a statement needs (70_reset_and_hazards.md R341), and plain readings of what stands in memory
(the memory map, the bitmap, the mappings of a hierarchy) that do not go through the commands. -/

namespace Sys2Proof.Machine

/-- No other agent interferes and no access is answered with an error: the port answers every access of the current
command normally. -/
def State.quiet (s : State) : Prop := s.answers = []

/-- In every table above level l, the position stands at an entry: the one that led down (43_page_walker.md R204). An
index of 512 is met only at the level being read. -/
def WalkPos.onPath (p : WalkPos) (l : Level) : Prop := ∀ l', levelNumber l < levelNumber l' → (p.idx l').val < 512

/-- What every state the block reaches has. -/
structure State.Inv (s : State) : Prop where
  /-- Equal memories are equal data. -/
  memCanonical : s.mem.wf = true
  /-- Unused bits of CTRL read 0 (10_state.md R32). -/
  ctrlBits : s.ctrl &&& ~~~0x3 = 0
  /-- DMAP_OFFSET[11:0] reads 0 (R33). -/
  offsetAligned : s.dmapOffset &&& 0xFFF = 0
  /-- MMAP_BASE[2:0] reads 0 (R34). -/
  mapAligned : s.mmapBase &&& 0x7 = 0
  /-- Unused bits of ADDR_WIDTHS read 0 (R35). -/
  widthBits : s.addrWidths &&& ~~~0xFFFF = 0
  /-- ARENA_BASE <= ARENA_CURSOR <= ARENA_END (R38, R42). -/
  arenaOrder : s.arena.base ≤ s.arena.cursor ∧ s.arena.cursor ≤ s.arena.limit
  /-- An arena exists only before the bitmap is built (R39, R46). -/
  arenaUninit : s.arenaValid = true → s.lifecycle = .uninit
  /-- BITMAP_BYTES = ceil_div(FRAME_COUNT, 8) (R40). -/
  bitmapCovers : s.bitmap.bytes.toNat = (s.bitmap.frameCount.toNat + 7) / 8
  /-- FRAME_COUNT <= 2^53 (20_memory.md R84). -/
  frameBound : s.bitmap.frameCount.toNat ≤ 2 ^ 53
  /-- The bitmap's storage lies below the arena's cursor (42_bitmap_builder.md R182). -/
  bitmapInArena : s.bitmap.base.toNat + s.bitmap.bytes.toNat ≤ s.arena.cursor.toNat
  /-- The bitmap registers are written by BITMAP_BUILD and by nothing else (R40). -/
  bitmapUnset : s.lifecycle = .uninit → s.halted = false → s.bitmap = { base := 0, bytes := 0, frameCount := 0 }
  /-- HALTED is set by a fatal fault, with its code, and by nothing else (60_exceptions.md R305, R309). -/
  haltedByFault : s.halted = s.fault.code.isSome
  /-- Every table address of the walker is a frame address: 4096-aligned and below 2^52 (10_state.md R44). -/
  tablesAligned : ∀ l, (walkerPos s.walker).tbl l &&& ~~~0x000FFFFFFFFFF000 = 0
  /-- In a walk, the tables above the level being read are not exhausted (43_page_walker.md R204). -/
  walkerOnPath : ∀ l p, s.walker = .active l p → p.onPath l

/-- The block owns the byte at a port address: it is a byte of a bitmap that was built (20_memory.md R82). DESIGN
CHOICE (log entry 17): the bytes of a BITMAP_BUILD that ended in BUS_ERROR among its writes, where LIFECYCLE is still
UNINIT, are not owned; R82 says only "from the BITMAP_BUILD that writes them". -/
def State.owns (s : State) (a : Word) : Prop :=
  s.lifecycle ≠ .uninit ∧ ∃ k, k < s.bitmap.bytes.toNat ∧ a = s.bitmapAddr k

/-- The first host duty of R341: no other agent writes a bitmap byte while the block owns it. -/
def State.storeRespects (s : State) (i : Input) : Prop :=
  match i with
  | .command _ => True
  | .resetLine => True
  | .store a _ => ¬ s.owns a

/-- BIT(f) as memory stands (10_state.md R41). -/
def State.frameBit (s : State) (f : Nat) : Bool := (s.mem.read (s.frameByteAddr f)).getLsbD (f % 8)

/-- Entry k of the memory-map table as memory stands (20_memory.md R70). -/
def State.mapEntry (s : State) (k : Nat) : MapEntry :=
  { base := s.mem.readWord (s.entryAddr k)
    length := s.mem.readWord (s.entryAddr k + 8)
    type := s.mem.readWord (s.entryAddr k + 16) }

/-- Whether entry k marks frame f used (42_bitmap_builder.md R183). -/
def State.mapMarks (s : State) (k f : Nat) : Prop :=
  (s.mapEntry k).type ≠ s.usableType ∧ 0 < (s.mapEntry k).length.toNat
    ∧ (s.mapEntry k).base.toNat < 4096 * (f + 1)
    ∧ 4096 * f < (s.mapEntry k).base.toNat + (s.mapEntry k).length.toNat

/-! ### The mappings of a hierarchy, as nested loops over its tables

The enumeration that 43_page_walker.md R200-R208 describe, written over the tables and not over the walker's position:
depth first, in ascending index order, up to the end of the hierarchy or to the fatal fault that stops it. -/

/-- How the enumeration reads a hierarchy: the entry at a physical address, PHYS_BITS and NXE. -/
structure TableView where
  entry : Word → Word
  physBits : Nat
  nxe : Bool

/-- The hierarchy as memory stands. -/
def State.tables (s : State) : TableView :=
  { entry := fun a => s.mem.readWord (s.phys a), physBits := s.physBits, nxe := s.nxe }

/-- What an enumeration meets: its records, in order, and the fatal fault it stops at, if it meets one. -/
structure Enumeration where
  records : List WalkRecord
  stop : Option FatalFault
deriving DecidableEq, Repr

/-- No record and no fault. -/
def Enumeration.nothing : Enumeration := { records := [], stop := none }

/-- One record. -/
def Enumeration.one (r : WalkRecord) : Enumeration := { records := [r], stop := none }

/-- A fatal fault. -/
def Enumeration.fault (f : FatalFault) : Enumeration := { records := [], stop := some f }

/-- One enumeration, then, unless a fault stopped it, another. -/
def Enumeration.andThen (a b : Enumeration) : Enumeration :=
  match a.stop with
  | some _ => a
  | none => { records := a.records ++ b.records, stop := b.stop }

/-- The entries with the indices given, one after the other. -/
def gather (f : Nat → Enumeration) : List Nat → Enumeration
  | [] => .nothing
  | i :: rest => (f i).andThen (gather f rest)

/-- The indices of a table from `i` on. -/
def indicesFrom (i : Nat) : List Nat := List.range' i (512 - i)

/-- The physical address of the entry at index i of the table at physical address T (R201). -/
def entryAt (T : Word) (i : Nat) : Word := T + BitVec.ofNat 64 (8 * i)

/-- The entry at index i of the table at physical address T (R201). -/
def TableView.at (v : TableView) (T : Word) (i : Nat) : Word := v.entry (entryAt T i)

/-- Whether a present entry has a reserved bit set, which ends the walk (R205). -/
def TableView.faulty (v : TableView) (l : Level) (e : Word) : Bool := violation l e v.physBits v.nxe != 0

/-- RESERVED_BIT of an entry (R205): the level, the entry's physical address, its value. -/
def reservedAt (l : Level) (T : Word) (i : Nat) (e : Word) : Enumeration :=
  .fault { code := .reservedBit, info0 := BitVec.ofNat 64 (levelNumber l), info1 := entryAt T i, info2 := e }

/-- UNSUPPORTED_PAGE_SIZE of an L3 entry (R208): the level, the entry's physical address, its value. -/
def hugePageAt (T : Word) (i : Nat) (e : Word) : Enumeration :=
  .fault { code := .unsupportedPageSize, info0 := 3, info1 := entryAt T i, info2 := e }

/-- The virtual address that four indices below 512 select (R211): they stand in bits 47:39, 38:30, 29:21 and 20:12,
bits 11:0 are 0, and bits 63:48 repeat bit 47, which is set when i4 is 256 or more. -/
def canonicalAddress (i4 i3 i2 i1 : Nat) : Word :=
  BitVec.ofNat 64 (i4 * 2 ^ 39 + i3 * 2 ^ 30 + i2 * 2 ^ 21 + i1 * 2 ^ 12 + if 256 ≤ i4 then 0xFFFF * 2 ^ 48 else 0)

/-- The mapping of entry i1 of an L1 table: none if it is not present, else a 4 KiB page (R204, R210). -/
def TableView.mapL1 (v : TableView) (i4 i3 i2 : Nat) (T : Word) (i1 : Nat) : Enumeration :=
  let e := v.at T i1
  if !entryPresent e then .nothing
  else if v.faulty .l1 e then reservedAt .l1 T i1 e
  else .one { va := canonicalAddress i4 i3 i2 i1, pa := e &&& 0x000FFFFFFFFFF000, size := .kib4 }

/-- The mappings of entry i2 of an L2 table: a 2 MiB page, or those of an L1 table (R207, R210). -/
def TableView.mapL2 (v : TableView) (i4 i3 : Nat) (T : Word) (i2 : Nat) : Enumeration :=
  let e := v.at T i2
  if !entryPresent e then .nothing
  else if v.faulty .l2 e then reservedAt .l2 T i2 e
  else if entryLarge e then
    .one { va := canonicalAddress i4 i3 i2 0, pa := e &&& 0x000FFFFFFFE00000, size := .mib2 }
  else gather (v.mapL1 i4 i3 i2 (e &&& addrMask)) (indicesFrom 0)

/-- The mappings of entry i3 of an L3 table: those of an L2 table; a 1 GiB page stops the walk (R208). -/
def TableView.mapL3 (v : TableView) (i4 : Nat) (T : Word) (i3 : Nat) : Enumeration :=
  let e := v.at T i3
  if !entryPresent e then .nothing
  else if v.faulty .l3 e then reservedAt .l3 T i3 e
  else if entryLarge e then hugePageAt T i3 e
  else gather (v.mapL2 i4 i3 (e &&& addrMask)) (indicesFrom 0)

/-- The mappings of entry i4 of the top-level table. -/
def TableView.mapL4 (v : TableView) (T : Word) (i4 : Nat) : Enumeration :=
  let e := v.at T i4
  if !entryPresent e then .nothing
  else if v.faulty .l4 e then reservedAt .l4 T i4 e
  else gather (v.mapL3 i4 (e &&& addrMask)) (indicesFrom 0)

/-- Every mapping of the hierarchy of a CR3 value, in the order of R202. -/
def TableView.mappings (v : TableView) (cr3 : Word) : Enumeration :=
  gather (v.mapL4 (rootTable cr3)) (indicesFrom 0)

/-- The mappings still ahead of a position (R203, R204): the rest of the table at its level, then the rest of each
table above it, from the entry after the one that led down. -/
def TableView.ahead (v : TableView) (l : Level) (p : WalkPos) : Enumeration :=
  let rest4 (i : Nat) := gather (v.mapL4 p.tbl4) (indicesFrom i)
  let rest3 (i : Nat) := gather (v.mapL3 p.idx4 p.tbl3) (indicesFrom i)
  let rest2 (i : Nat) := gather (v.mapL2 p.idx4 p.idx3 p.tbl2) (indicesFrom i)
  let rest1 (i : Nat) := gather (v.mapL1 p.idx4 p.idx3 p.idx2 p.tbl1) (indicesFrom i)
  match l with
  | .l4 => rest4 p.idx4
  | .l3 => (rest3 p.idx3).andThen (rest4 (p.idx4 + 1))
  | .l2 => (rest2 p.idx2).andThen ((rest3 (p.idx3 + 1)).andThen (rest4 (p.idx4 + 1)))
  | .l1 => (rest1 p.idx1).andThen ((rest2 (p.idx2 + 1)).andThen ((rest3 (p.idx3 + 1)).andThen (rest4 (p.idx4 + 1))))

/-- The state a fatal fault leaves: what the sequence of 60_exceptions.md R309 writes. -/
def State.faulted (s : State) (f : FatalFault) : State :=
  { s with
    fault := { code := some f.code, info0 := f.info0, info1 := f.info1, info2 := f.info2 }
    halted := true, status := .fatal, res := .zero }

/-- FR of a record (R214): the frames it maps, ascending. -/
def WalkRecord.frames (r : WalkRecord) : List Nat := List.range' (r.pa.toNat / 4096) (pageFrames r.size)

/-- Every frame occurrence of a list of records, in order. -/
def mappedFrames (rs : List WalkRecord) : List Nat := rs.flatMap WalkRecord.frames

/-- Every table the walk of a CR3 value reaches lies in `T`, by level. -/
def State.tablesWithin (s : State) (cr3 : Word) (T : Level → Word → Prop) : Prop :=
  T .l4 (rootTable cr3)
    ∧ (∀ a i, T .l4 a → i < 512 → entryPresent (s.tables.at a i) → T .l3 (s.tables.at a i &&& addrMask))
    ∧ (∀ a i, T .l3 a → i < 512 → entryPresent (s.tables.at a i) → T .l2 (s.tables.at a i &&& addrMask))
    ∧ (∀ a i, T .l2 a → i < 512 → entryPresent (s.tables.at a i) → entryLarge (s.tables.at a i) = false →
        T .l1 (s.tables.at a i &&& addrMask))

/-- No byte of a table of the walk of a CR3 value is a byte of the bitmap (the layouts of R342 set aside). -/
def State.tablesApart (s : State) (cr3 : Word) : Prop :=
  ∃ T : Level → Word → Prop, s.tablesWithin cr3 T
    ∧ ∀ l a, T l a → ∀ off, off < 4096 → ∀ k, k < s.bitmap.bytes.toNat →
        s.phys (a + BitVec.ofNat 64 off) ≠ s.bitmapAddr k

/-! ### The tables of the spec, as the statements name them -/

/-- The command words of 30_encoding.md R95. -/
def commandWords : List (Instr × BitVec 32) :=
  [(.pteNewL1, 0x00000001), (.pteNewL2, 0x00000101), (.pteNewL3, 0x00000201), (.pteNewL4, 0x00000301),
   (.pteFlagsL1, 0x00000002), (.pteFlagsL2, 0x00000102), (.pteFlagsL3, 0x00000202), (.pteFlagsL4, 0x00000302),
   (.pteFrameL1, 0x00000003), (.pteFrameL2, 0x00000103), (.pteFrameL3, 0x00000203), (.pteFrameL4, 0x00000303),
   (.ptePresentL1, 0x00000004), (.ptePresentL2, 0x00000104), (.ptePresentL3, 0x00000204),
   (.ptePresentL4, 0x00000304), (.pteLargeL2, 0x00000105), (.pteLargeL3, 0x00000205),
   (.pteRsvdL1, 0x00000006), (.pteRsvdL2, 0x00000106), (.pteRsvdL3, 0x00000206), (.pteRsvdL4, 0x00000306),
   (.bitx, 0x00000008), (.biti, 0x00000009),
   (.arenaFind, 0x00000010), (.arenaAlloc, 0x00000011), (.arenaFree, 0x00000012), (.bitmapBuild, 0x00000020),
   (.walkStart, 0x00000030), (.walkNext, 0x00000031), (.walkMark, 0x00000032), (.walkCheck, 0x00000033),
   (.frameAlloc, 0x00000040), (.frameFree, 0x00000041), (.frameTest, 0x00000042), (.freeCount, 0x00000043),
   (.bitmapFreeze, 0x00000044), (.csrRead, 0x000000F0), (.csrWrite, 0x000000F1), (.reset, 0x000000FF)]

/-- The 24 operation codes of 30_encoding.md R94. -/
def assignedOps : List Nat :=
  [0x01, 0x02, 0x03, 0x04, 0x05, 0x06, 0x08, 0x09, 0x10, 0x11, 0x12, 0x20, 0x30, 0x31, 0x32, 0x33,
   0x40, 0x41, 0x42, 0x43, 0x44, 0xF0, 0xF1, 0xFF]

/-- Whether bit n is a flag of a word w at a level (40_pte_codec.md R121, R122). -/
def isFlagBit (l : Level) (w : Word) (n : Nat) : Prop :=
  n ≤ 5
    ∨ (l = .l1 ∧ (n = 6 ∨ n = 8 ∨ n = 63))
    ∨ ((l = .l2 ∨ l = .l3) ∧ w.getLsbD 7 = true ∧ (n = 6 ∨ n = 7))

/-- Whether bit n of an entry is reserved at a level (40_pte_codec.md R140), for M physical address bits. -/
def isReservedBit (l : Level) (e : Word) (m : Nat) (nxe : Bool) (n : Nat) : Prop :=
  (m ≤ n ∧ n ≤ 51)
    ∨ (l = .l4 ∧ n = 7)
    ∨ (l = .l3 ∧ e.getLsbD 7 = true ∧ 13 ≤ n ∧ n ≤ 29)
    ∨ (l = .l2 ∧ e.getLsbD 7 = true ∧ 13 ≤ n ∧ n ≤ 20)
    ∨ (nxe = false ∧ n = 63)

/-- Whether a CR3 value has a bit set in 51:PHYS_BITS (43_page_walker.md R206). -/
def State.rootReserved (s : State) (cr3 : Word) : Prop := ∃ n, s.physBits ≤ n ∧ n ≤ 51 ∧ cr3.getLsbD n = true

/-- Whether MMAP_COUNT exceeds MMAP_MAX (20_memory.md R71). -/
def State.overMax (s : State) : Prop := ∃ m, s.config.mmapMax = some m ∧ m < s.mmapCount.toNat

/-- Whether b is align_up(a, n) (00_scope.md R13): the least multiple of n that is at least a. -/
def alignsUpTo (a n b : Nat) : Prop := n ∣ b ∧ a ≤ b ∧ b < a + n

/-- Whether entry k of the map fits an arena of ARG0 bytes at alignment ARG1, starting at `start`
(41_bootstrap_arena.md R161). -/
def State.arenaFits (s : State) (k start : Nat) : Prop :=
  (s.mapEntry k).type = s.usableType
    ∧ alignsUpTo (s.mapEntry k).base.toNat s.args.v1.toNat start
    ∧ start + s.args.v0.toNat ≤ (s.mapEntry k).base.toNat + (s.mapEntry k).length.toNat
    ∧ start + s.args.v0.toNat ≤ 2 ^ 64 - 1

/-- Whether n is SPAN of the map (42_bitmap_builder.md R181). -/
def State.spanIs (s : State) (n : Nat) : Prop :=
  (∀ k, k < s.mmapCount.toNat → (s.mapEntry k).base.toNat + (s.mapEntry k).length.toNat ≤ n)
    ∧ (n = 0 ∨ ∃ k, k < s.mmapCount.toNat ∧ (s.mapEntry k).base.toNat + (s.mapEntry k).length.toNat = n)

/-- How many frames f < n the bitmap records as free. -/
def State.freeBelow (s : State) (n : Nat) : Nat := ((List.range n).filter (fun f => !s.frameBit f)).length

/-- How many of the frames f0 .. f0 + n - 1 the bitmap records as used. -/
def State.usedBetween (s : State) (f0 n : Nat) : Nat := ((List.range' f0 n).filter (fun f => s.frameBit f)).length

/-- The registers of 10_state.md R28 by number, with their values (R29-R45). -/
def State.registers (s : State) : List (Nat × Word) :=
  [(0x00, BitVec.ofNat 64 (statusCode s.status).toNat),
   (0x01, BitVec.ofNat 64 ((lifecycleCode s.lifecycle).toNat + 4 * s.arenaValid.toNat + 8 * s.halted.toNat
      + 16 * (walkerStateCode s.walker).toNat)),
   (0x02, BitVec.ofNat 64 (faultCode s.fault.code).toNat),
   (0x03, s.fault.info0), (0x04, s.fault.info1), (0x05, s.fault.info2),
   (0x08, s.ctrl), (0x09, s.dmapOffset), (0x0A, s.mmapBase), (0x0B, s.mmapCount), (0x0C, s.addrWidths),
   (0x0D, s.usableType),
   (0x10, s.arena.base), (0x11, s.arena.limit), (0x12, s.arena.cursor),
   (0x18, s.bitmap.base), (0x19, s.bitmap.bytes), (0x1A, s.bitmap.frameCount),
   (0x20, (walkerPos s.walker).tbl4),
   (0x21, BitVec.ofNat 64 ((walkerPos s.walker).idx4.val + 2 ^ 10 * (walkerPos s.walker).idx3.val
      + 2 ^ 20 * (walkerPos s.walker).idx2.val + 2 ^ 30 * (walkerPos s.walker).idx1.val
      + 2 ^ 40 * (walkerLevel s.walker).toNat)),
   (0x22, (walkerPos s.walker).tbl3), (0x23, (walkerPos s.walker).tbl2), (0x24, (walkerPos s.walker).tbl1)]

/-- The numbers of the read-only registers (10_state.md R28). -/
def readOnlyNumbers : List Nat :=
  [0x00, 0x01, 0x02, 0x03, 0x04, 0x05, 0x10, 0x11, 0x12, 0x18, 0x19, 0x1A, 0x20, 0x21, 0x22, 0x23, 0x24]

/-- The fatal faults a command can raise (60_exceptions.md R306). -/
def faultsOf : Instr → List FaultCode
  | .arenaFind => [.lookupNotFound, .busError]
  | .bitmapBuild => [.arenaExhausted, .busError]
  | .walkStart => [.reservedBit]
  | .walkNext | .walkMark | .walkCheck => [.reservedBit, .unsupportedPageSize, .busError]
  | .frameAlloc | .frameFree | .frameTest | .freeCount => [.busError]
  | .pteNewL1 | .pteNewL2 | .pteNewL3 | .pteNewL4
  | .pteFlagsL1 | .pteFlagsL2 | .pteFlagsL3 | .pteFlagsL4
  | .pteFrameL1 | .pteFrameL2 | .pteFrameL3 | .pteFrameL4
  | .ptePresentL1 | .ptePresentL2 | .ptePresentL3 | .ptePresentL4
  | .pteLargeL2 | .pteLargeL3
  | .pteRsvdL1 | .pteRsvdL2 | .pteRsvdL3 | .pteRsvdL4
  | .bitx | .biti | .arenaAlloc | .arenaFree | .bitmapFreeze | .csrRead | .csrWrite | .reset => []

/-- WALK_NEXT, command after command, answers the records of a list in order, and then that the walk is over, or the
fatal fault that stops it. -/
def State.yields (s : State) : List WalkRecord → Option FatalFault → State → Prop
  | [], none, t => exec .walkNext s = .next t ∧ t.status = .ok ∧ t.res = .zero
  | [], some f, t => ∃ w, exec .walkNext s = .next t ∧ t = ({ s with walker := w } : State).faulted f
  | r :: rest, stop, t => ∃ u, exec .walkNext s = .next u ∧ u.status = .ok
      ∧ u.res = { v0 := r.va, v1 := r.pa, v2 := pageSizeCode r.size, v3 := 1 } ∧ u.yields rest stop t

/-- Where a command that the port answers with its first error at its access number n (counted from 0) was reading, or
(`write`) writing, `a` being that port address, `t` the state it leaves (20_memory.md R61, R71-R73, R75). The commands
that are not listed make no access. -/
def State.accesses (s : State) (i : Instr) (t : State) (n : Nat) (a : Word) (write : Bool) : Prop :=
  let mapWord := write = false ∧ n < 3 * s.mmapCount.toNat
    ∧ a = s.entryAddr (n / 3) + BitVec.ofNat 64 (8 * (n % 3))
  let tableEntry := write = false ∧ ∃ l p, t.walker = .active l p ∧ (p.idx l).val < 512
    ∧ a = s.phys (entryAt (p.tbl l) (p.idx l).val)
  let firstEntry := n = 0 → write = false ∧ a = s.phys (s.args.v0 &&& 0x000FFFFFFFFFF000)
  let frameByte := ∃ f, f < s.bitmap.frameCount.toNat ∧ a = s.frameByteAddr f
  match i with
  | .arenaFind => mapWord
  | .bitmapBuild => mapWord ∨ (write = true ∧ 3 * s.mmapCount.toNat ≤ n
      ∧ n - 3 * s.mmapCount.toNat < t.bitmap.bytes.toNat ∧ a = t.bitmapAddr (n - 3 * s.mmapCount.toNat))
  | .walkNext => tableEntry
  | .walkMark => firstEntry ∧ (tableEntry ∨ frameByte)
  | .walkCheck => firstEntry ∧ (tableEntry ∨ (write = false ∧ frameByte))
  | .frameAlloc => (write = false ∧ n < s.bitmap.bytes.toNat ∧ a = s.bitmapAddr n)
      ∨ (write = true ∧ 0 < n ∧ n ≤ s.bitmap.bytes.toNat ∧ a = s.bitmapAddr (n - 1))
  | .frameFree => (n = 0 → write = false ∧ a = s.frameByteAddr (s.args.v0.toNat / 4096))
      ∧ ∃ f, s.args.v0.toNat / 4096 ≤ f ∧ f < s.bitmap.frameCount.toNat
        ∧ f < s.args.v0.toNat / 4096 + (if s.args.v1 = 0 then 1 else 512) ∧ a = s.frameByteAddr f
  | .frameTest => write = false ∧ n = 0 ∧ a = s.frameByteAddr s.args.v0.toNat
  | .freeCount => write = false ∧ n < s.bitmap.bytes.toNat ∧ a = s.bitmapAddr n
  | .pteNewL1 | .pteNewL2 | .pteNewL3 | .pteNewL4
  | .pteFlagsL1 | .pteFlagsL2 | .pteFlagsL3 | .pteFlagsL4
  | .pteFrameL1 | .pteFrameL2 | .pteFrameL3 | .pteFrameL4
  | .ptePresentL1 | .ptePresentL2 | .ptePresentL3 | .ptePresentL4
  | .pteLargeL2 | .pteLargeL3
  | .pteRsvdL1 | .pteRsvdL2 | .pteRsvdL3 | .pteRsvdL4
  | .bitx | .biti | .arenaAlloc | .arenaFree | .walkStart | .bitmapFreeze | .csrRead | .csrWrite | .reset => False

end Sys2Proof.Machine
end

