-- ==== Sys2Proof/Certificates/Slice0/Obligations.lean ====
section
/-! DEFINITION. The statements for the provers. Each docstring names the rules of spec/ it states, or says that it is
derived. A statement about one command gives its next state whole, so its frame is what the equation leaves as it was;
`quiet` says that the port answers every access of the command normally. -/

open Sys2Proof Sys2Proof.Machine

/-! ### Encoding -/

/-- Derived from R90, R91, R94: words of every family, as 30_encoding.md R95 infers them, decode to their commands. -/
def Obligations.SampleWordsDecode : Prop :=
  decode 0x00000301 = .ok .pteNewL4 ∧ decode 0x00000102 = .ok .pteFlagsL2 ∧ decode 0x00000003 = .ok .pteFrameL1
    ∧ decode 0x00000204 = .ok .ptePresentL3 ∧ decode 0x00000105 = .ok .pteLargeL2 ∧ decode 0x00000306 = .ok .pteRsvdL4
    ∧ decode 0x00000009 = .ok .biti ∧ decode 0x00000012 = .ok .arenaFree ∧ decode 0x00000020 = .ok .bitmapBuild
    ∧ decode 0x00000033 = .ok .walkCheck ∧ decode 0x00000041 = .ok .frameFree ∧ decode 0x000000F1 = .ok .csrWrite
    ∧ decode 0x000000FF = .ok .reset

/-- Derived from R90, R91, R94: on all 2^32 words, the decoder reads a command from exactly the word the table of R95
(the spec's own inference from these rules) gives it, the encoder writes that word, and decoding an encoded command
gives it back. -/
def Obligations.DecodeIsTheTable : Prop :=
  (∀ i, decode (encode i) = .ok i)
    ∧ (∀ i, (i, encode i) ∈ commandWords)
    ∧ ∀ i w, decode w = .ok i ↔ (i, w) ∈ commandWords

/-- R96: a word is illegal exactly when one of the four conditions holds; the response to one is ILLEGAL_CMD, or HALTED
while halted, and nothing else of the block changes but the operand registers, which take the request's operands. -/
def Obligations.IllegalWords : Prop :=
  (∀ w : BitVec 32, (∃ e, decode w = .error e) ↔
      w.extractLsb' 10 22 ≠ 0
        ∨ (w.extractLsb' 0 8).toNat ∉ assignedOps
        ∨ (6 < (w.extractLsb' 0 8).toNat ∧ w.extractLsb' 8 2 ≠ 0)
        ∨ ((w.extractLsb' 0 8).toNat = 5 ∧ (w.extractLsb' 8 2 = 0 ∨ w.extractLsb' 8 2 = 3)))
    ∧ ∀ s r rest e, s.inputs = .command r :: rest → decode r.cmd = .error e →
        step s = .next { s with
          args := r.args, answers := r.answers, inputs := rest, res := .zero
          status := if s.halted then .halted else .illegalCmd }

/-! ### The step -/

/-- Derived from R21, R25, R97: a request whose word decodes to a command is executed as that command, its operands in
ARG0..ARG3; withFetchWord puts a command there (log entry 1). -/
def Obligations.StepRunsDecoded : Prop :=
  (∀ s r rest i, s.inputs = .command r :: rest → decode r.cmd = .ok i →
      step s = exec i { s with args := r.args, answers := r.answers, inputs := rest })
    ∧ ∀ (s : State) (w : Nat) (i : Instr), decode (BitVec.ofNat 32 w) = .ok i →
        step (s.withFetchWord 32 w) = exec i s

/-- R330: after RESET, and after the reset input, every register has its reset value; memory and the model's own
fields are as they were (R331). -/
def Obligations.ResetResult : Prop :=
  decode 0x000000FF = .ok .reset
    ∧ (∀ s : State, exec .reset s = .next
        { args := { v0 := 0, v1 := 0, v2 := 0, v3 := 0 }, res := { v0 := 0, v1 := 0, v2 := 0, v3 := 0 }, status := .ok
          lifecycle := .uninit, arenaValid := false, halted := false, walker := .idle
          fault := { code := none, info0 := 0, info1 := 0, info2 := 0 }, ctrl := 2, dmapOffset := 0, mmapBase := 0
          mmapCount := 0, addrWidths := 0, usableType := 0, arena := { base := 0, limit := 0, cursor := 0 }
          bitmap := { base := 0, bytes := 0, frameCount := 0 }, mem := s.mem, inputs := s.inputs, answers := s.answers
          config := s.config })
    ∧ (∀ s rest, s.inputs = .resetLine :: rest → step s = exec .reset { s with inputs := rest })
    ∧ ∀ n v, (n, v) ∈ State.reset.registers → v = if n = 0x08 then 2 else 0

/-- Derived from R20, R82, R341: another agent's store changes one byte of memory and no register; when the agent keeps
off the bytes the block owns, no bit of the bitmap changes. -/
def Obligations.AgentStore : Prop :=
  ∀ s a b rest, s.inputs = .store a b :: rest →
    step s = .next { s with inputs := rest, mem := s.mem.write a b }
      ∧ (s.Inv → s.lifecycle ≠ .uninit → s.storeRespects (.store a b) →
          ∀ f, f < 8 * s.bitmap.bytes.toNat →
            ({ s with inputs := rest, mem := s.mem.write a b } : State).frameBit f = s.frameBit f)

/-- Derived from R327, R204: every command completes, in every state and whatever the port answers, page walks included
(the spec infers their bound in R217); so does every step. -/
def Obligations.EveryCommandCompletes : Prop :=
  (∀ i s, ∃ t, exec i s = .next t) ∧ ∀ s, ∃ t, step s = .next t

/-! ### The codec -/

/-- R125: PTE_NEW packs address bits 51:12 of ARG0 and the flags of ARG1 that the level has (R121, R122). -/
def Obligations.PteNewResult : Prop :=
  ∀ l : Level, decode (BitVec.ofNat 32 (0x001 + 0x100 * (levelNumber l - 1))) =
      .ok (atLevel l .pteNewL1 .pteNewL2 .pteNewL3 .pteNewL4)
    ∧ ∀ s : State, s.halted = false → ∃ e : Word,
      exec (atLevel l .pteNewL1 .pteNewL2 .pteNewL3 .pteNewL4) s =
        .next { s with status := .ok, res := { v0 := e, v1 := 0, v2 := 0, v3 := 0 } }
      ∧ ∀ n, n < 64 → (e.getLsbD n = true ↔
          (12 ≤ n ∧ n ≤ 51 ∧ s.args.v0.getLsbD n = true)
            ∨ (isFlagBit l s.args.v1 n ∧ s.args.v1.getLsbD n = true))

/-- R126: PTE_FLAGS answers the flags of ARG0 that the level has, and RES1 = 1. -/
def Obligations.PteFlagsResult : Prop :=
  ∀ l : Level, decode (BitVec.ofNat 32 (0x002 + 0x100 * (levelNumber l - 1))) =
      .ok (atLevel l .pteFlagsL1 .pteFlagsL2 .pteFlagsL3 .pteFlagsL4)
    ∧ ∀ s : State, s.halted = false → ∃ e : Word,
      exec (atLevel l .pteFlagsL1 .pteFlagsL2 .pteFlagsL3 .pteFlagsL4) s =
        .next { s with status := .ok, res := { v0 := e, v1 := 1, v2 := 0, v3 := 0 } }
      ∧ ∀ n, n < 64 → (e.getLsbD n = true ↔ isFlagBit l s.args.v0 n ∧ s.args.v0.getLsbD n = true)

/-- R127: PTE_FRAME answers bits 51:12 of ARG0 in place, a 4096-aligned address below 2^52. -/
def Obligations.PteFrameResult : Prop :=
  ∀ l : Level, decode (BitVec.ofNat 32 (0x003 + 0x100 * (levelNumber l - 1))) =
      .ok (atLevel l .pteFrameL1 .pteFrameL2 .pteFrameL3 .pteFrameL4)
    ∧ ∀ s : State, s.halted = false → ∃ e : Word,
      exec (atLevel l .pteFrameL1 .pteFrameL2 .pteFrameL3 .pteFrameL4) s =
        .next { s with status := .ok, res := { v0 := e, v1 := 0, v2 := 0, v3 := 0 } }
      ∧ e.toNat = s.args.v0.toNat / 2 ^ 12 % 2 ^ 40 * 4096

/-- R128: PTE_PRESENT answers bit 0 of ARG0, and R129: PTE_LARGE answers bit 7 of ARG0, at L2 and L3 only (its words at
the other levels are illegal). -/
def Obligations.PteBitTests : Prop :=
  (∀ l : Level, decode (BitVec.ofNat 32 (0x004 + 0x100 * (levelNumber l - 1))) =
      .ok (atLevel l .ptePresentL1 .ptePresentL2 .ptePresentL3 .ptePresentL4)
    ∧ ∀ s : State, s.halted = false →
      exec (atLevel l .ptePresentL1 .ptePresentL2 .ptePresentL3 .ptePresentL4) s =
        .next { s with
          status := .ok, res := { v0 := BitVec.ofNat 64 (s.args.v0.toNat % 2), v1 := 0, v2 := 0, v3 := 0 } })
    ∧ decode 0x105 = .ok .pteLargeL2 ∧ decode 0x205 = .ok .pteLargeL3
    ∧ decode 0x005 = .error .noLargeBitAtLevel ∧ decode 0x305 = .error .noLargeBitAtLevel
    ∧ ∀ i s, i = .pteLargeL2 ∨ i = .pteLargeL3 → s.halted = false →
      exec i s = .next { s with
        status := .ok, res := { v0 := BitVec.ofNat 64 (s.args.v0.toNat / 128 % 2), v1 := 0, v2 := 0, v3 := 0 } }

/-- R140, R141: PTE_RSVD answers the reserved bits set in a present entry, and whether there are any; BAD_CONFIG when
PHYS_BITS is outside 13..52. -/
def Obligations.PteRsvdResult : Prop :=
  ∀ l : Level, decode (BitVec.ofNat 32 (0x006 + 0x100 * (levelNumber l - 1))) =
      .ok (atLevel l .pteRsvdL1 .pteRsvdL2 .pteRsvdL3 .pteRsvdL4)
    ∧ ∀ s : State, s.halted = false →
      (13 ≤ s.physBits ∧ s.physBits ≤ 52 → ∃ v : Word,
        exec (atLevel l .pteRsvdL1 .pteRsvdL2 .pteRsvdL3 .pteRsvdL4) s =
          .next { s with status := .ok, res := { v0 := v, v1 := if v = 0 then 0 else 1, v2 := 0, v3 := 0 } }
        ∧ ∀ n, n < 64 → (v.getLsbD n = true ↔
            s.args.v0.getLsbD 0 = true ∧ s.args.v0.getLsbD n = true
              ∧ isReservedBit l s.args.v0 s.physBits s.nxe n))
      ∧ (¬ (13 ≤ s.physBits ∧ s.physBits ≤ 52) →
        exec (atLevel l .pteRsvdL1 .pteRsvdL2 .pteRsvdL3 .pteRsvdL4) s =
          .next { s with status := .badConfig, res := .zero })

/-- Derived from R122, R125, R126, R127 (the spec's own inference, R124): of a packed entry with a frame address and a
level-appropriate flag word, PTE_FRAME gives back the address and PTE_FLAGS the flags. -/
def Obligations.CodecRoundTrip : Prop :=
  ∀ (l : Level) (s : State), s.halted = false → s.args.v0 &&& ~~~0x000FFFFFFFFFF000 = 0 →
    (∀ n, n < 64 → s.args.v1.getLsbD n = true → isFlagBit l s.args.v1 n) →
    ∃ t u v, exec (atLevel l .pteNewL1 .pteNewL2 .pteNewL3 .pteNewL4) s = .next t
      ∧ exec (atLevel l .pteFrameL1 .pteFrameL2 .pteFrameL3 .pteFrameL4)
          { t with args := { t.args with v0 := t.res.v0 } } = .next u
      ∧ exec (atLevel l .pteFlagsL1 .pteFlagsL2 .pteFlagsL3 .pteFlagsL4)
          { t with args := { t.args with v0 := t.res.v0 } } = .next v
      ∧ u.res.v0 = s.args.v0 ∧ v.res.v0 = s.args.v1

/-! ### Bit ranges -/

/-- R145: BITX answers the bits of [lo, hi) at position 0; BAD_RANGE unless lo <= hi <= 64. -/
def Obligations.BitxResult : Prop :=
  decode 0x00000008 = .ok .bitx ∧ ∀ s : State, s.halted = false →
    (s.args.v1.toNat ≤ s.args.v2.toNat ∧ s.args.v2.toNat ≤ 64 → ∃ v : Word,
      exec .bitx s = .next { s with status := .ok, res := { v0 := v, v1 := 0, v2 := 0, v3 := 0 } }
      ∧ ∀ n, n < 64 → (v.getLsbD n = true ↔
          n < s.args.v2.toNat - s.args.v1.toNat ∧ s.args.v0.getLsbD (n + s.args.v1.toNat) = true))
    ∧ (¬ (s.args.v1.toNat ≤ s.args.v2.toNat ∧ s.args.v2.toNat ≤ 64) →
      exec .bitx s = .next { s with status := .badRange, res := .zero })

/-- Derived from R145, R146: BITI answers ARG0 with [lo, hi) replaced by the low bits of ARG3; BAD_RANGE unless
lo <= hi <= 64; and the two laws the spec infers in R146: extracting what was inserted gives the field, inserting what
was extracted gives the value back. -/
def Obligations.BitiResult : Prop :=
  decode 0x00000009 = .ok .biti ∧ ∀ s : State, s.halted = false →
    (s.args.v1.toNat ≤ s.args.v2.toNat ∧ s.args.v2.toNat ≤ 64 →
      (∃ v : Word, exec .biti s = .next { s with status := .ok, res := { v0 := v, v1 := 0, v2 := 0, v3 := 0 } }
        ∧ (∀ n, n < 64 → (v.getLsbD n = true ↔
            if s.args.v1.toNat ≤ n ∧ n < s.args.v2.toNat then s.args.v3.getLsbD (n - s.args.v1.toNat) = true
            else s.args.v0.getLsbD n = true))
        ∧ ∃ t, exec .bitx { s with args := { s.args with v0 := v } } = .next t
            ∧ t.res.v0.toNat = s.args.v3.toNat % 2 ^ (s.args.v2.toNat - s.args.v1.toNat))
      ∧ ∃ t u, exec .bitx s = .next t ∧ exec .biti { s with args := { s.args with v3 := t.res.v0 } } = .next u
          ∧ u.res.v0 = s.args.v0)
    ∧ (¬ (s.args.v1.toNat ≤ s.args.v2.toNat ∧ s.args.v2.toNat ≤ 64) →
      exec .biti s = .next { s with status := .badRange, res := .zero })

/-! ### The arena -/

/-- R161: ARENA_FIND takes the first usable entry, in table order, in which `size` bytes fit from its base rounded up;
its checks and LOOKUP_NOT_FOUND, in their order. -/
def Obligations.ArenaFindResult : Prop :=
  decode 0x00000010 = .ok .arenaFind ∧ ∀ s : State, s.halted = false →
    ((s.lifecycle ≠ .uninit ∨ s.arenaValid = true) →
      exec .arenaFind s = .next { s with status := .badState, res := .zero })
    ∧ (s.lifecycle = .uninit → s.arenaValid = false →
      (s.overMax → exec .arenaFind s = .next { s with status := .badConfig, res := .zero })
      ∧ (¬ s.overMax → (¬ ∃ j, s.args.v1.toNat = 2 ^ j) →
          exec .arenaFind s = .next { s with status := .invalidAlignment, res := .zero })
      ∧ (¬ s.overMax → (∃ j, s.args.v1.toNat = 2 ^ j) → s.quiet →
          (∀ k start, k < s.mmapCount.toNat → s.arenaFits k start →
            (∀ j, j < k → ∀ b, ¬ s.arenaFits j b) →
            exec .arenaFind s = .next { s with
              arena := { base := BitVec.ofNat 64 start, limit := BitVec.ofNat 64 (start + s.args.v0.toNat)
                         cursor := BitVec.ofNat 64 start }
              arenaValid := true, status := .ok
              res := { v0 := BitVec.ofNat 64 start, v1 := BitVec.ofNat 64 (start + s.args.v0.toNat)
                       v2 := BitVec.ofNat 64 k, v3 := 0 } })
          ∧ ((∀ k, k < s.mmapCount.toNat → ∀ b, ¬ s.arenaFits k b) →
            exec .arenaFind s = .next { s with
              fault := { code := some .lookupNotFound, info0 := s.args.v0, info1 := s.args.v1, info2 := s.mmapCount }
              halted := true, status := .fatal, res := .zero })))

/-- R165, with the take of R163: ARENA_ALLOC rounds the cursor up to the alignment and moves it past the region; its
three refusals, in their order, change nothing. -/
def Obligations.ArenaAllocResult : Prop :=
  decode 0x00000011 = .ok .arenaAlloc ∧ ∀ s : State, s.halted = false →
    ((s.lifecycle ≠ .uninit ∨ s.arenaValid = false) →
      exec .arenaAlloc s = .next { s with status := .badState, res := .zero })
    ∧ (s.lifecycle = .uninit → s.arenaValid = true →
      ((¬ ∃ j, s.args.v1.toNat = 2 ^ j) →
        exec .arenaAlloc s = .next { s with status := .invalidAlignment, res := .zero })
      ∧ ∀ start j, s.args.v1.toNat = 2 ^ j → alignsUpTo s.arena.cursor.toNat s.args.v1.toNat start →
          exec .arenaAlloc s = .next
            (if 2 ^ 64 - 1 < start ∨ s.arena.limit.toNat < start then
              { s with status := .alignmentNotPossible, res := .zero }
            else if s.arena.limit.toNat < start + s.args.v0.toNat then { s with status := .outOfSpace, res := .zero }
            else
              { s with
                arena := { s.arena with cursor := BitVec.ofNat 64 (start + s.args.v0.toNat) }
                status := .ok
                res := { v0 := BitVec.ofNat 64 start, v1 := BitVec.ofNat 64 (start + s.args.v0.toNat)
                         v2 := 0, v3 := 0 } }))

/-- R167: ARENA_FREE ends with OK in every lifecycle state and changes nothing; while halted it fails with HALTED. -/
def Obligations.ArenaFreeResult : Prop :=
  decode 0x00000012 = .ok .arenaFree ∧ ∀ s : State,
    exec .arenaFree s = .next { s with status := if s.halted then .halted else .ok, res := .zero }

/-- Derived from R38, R42, R160: the cursor never moves down and the arena's bounds never move while the arena is
valid, whatever the port answers; no command but ARENA_FIND, ARENA_ALLOC, BITMAP_BUILD and RESET changes the arena. -/
def Obligations.ArenaOnlyBumps : Prop :=
  ∀ i s t, exec i s = .next t → i ≠ .reset →
    (s.arenaValid = true →
      s.arena.cursor.toNat ≤ t.arena.cursor.toNat ∧ t.arena.base = s.arena.base ∧ t.arena.limit = s.arena.limit)
    ∧ (i ≠ .arenaFind → i ≠ .arenaAlloc → i ≠ .bitmapBuild → t.arena = s.arena)

/-! ### The bitmap builder -/

/-- Derived from R180, R181, R182, R183, R184 (the refusals and the fault of R180 are BitmapBuildRefusals): a
BITMAP_BUILD that succeeds takes ceil(FC / 8) bytes at the cursor, writes bit f as 1 exactly for padding, for a frame
some non-usable entry overlaps, and, with RESERVE_SELF, for a frame that holds the bitmap. No other byte of memory
changes. -/
def Obligations.BitmapBuildResult : Prop :=
  decode 0x00000020 = .ok .bitmapBuild ∧ ∀ (s : State) (span fc nb : Nat),
    s.halted = false → s.lifecycle = .uninit → s.arenaValid = true → ¬ s.overMax → s.quiet → s.mem.wf = true →
    s.spanIs span → fc = span / 4096 → nb = (fc + 7) / 8 → s.arena.cursor.toNat + nb ≤ s.arena.limit.toNat →
    ∃ (m : Memory) (t : State), exec .bitmapBuild s = .next t
      ∧ t = { s with
          mem := m
          arena := { s.arena with cursor := BitVec.ofNat 64 (s.arena.cursor.toNat + nb) }
          bitmap := { base := s.arena.cursor, bytes := BitVec.ofNat 64 nb, frameCount := BitVec.ofNat 64 fc }
          lifecycle := .built, arenaValid := false, status := .ok
          res := { v0 := s.arena.cursor, v1 := BitVec.ofNat 64 nb, v2 := BitVec.ofNat 64 fc
                   v3 := BitVec.ofNat 64 (t.freeBelow fc) } }
      ∧ (∀ f, f < 8 * nb → (t.frameBit f = true ↔
          fc ≤ f ∨ (∃ k, k < s.mmapCount.toNat ∧ s.mapMarks k f)
            ∨ (s.reserveSelf = true ∧ 0 < nb ∧ s.arena.cursor.toNat < 4096 * (f + 1)
                ∧ 4096 * f < s.arena.cursor.toNat + nb)))
      ∧ ∀ a, (∀ j, j < nb → a ≠ t.bitmapAddr j) → m.read a = s.mem.read a

/-- Derived from R180, R182, R305: the checks of BITMAP_BUILD, and ARENA_EXHAUSTED when the bitmap does not fit the
arena, raised before any register of the arena or bitmap and any byte changes. -/
def Obligations.BitmapBuildRefusals : Prop :=
  ∀ s : State, s.halted = false →
    ((s.lifecycle ≠ .uninit ∨ s.arenaValid = false) →
      exec .bitmapBuild s = .next { s with status := .badState, res := .zero })
    ∧ (s.lifecycle = .uninit → s.arenaValid = true →
      (s.overMax → exec .bitmapBuild s = .next { s with status := .badConfig, res := .zero })
      ∧ ∀ span nb, ¬ s.overMax → s.quiet → s.spanIs span → nb = (span / 4096 + 7) / 8 →
          s.arena.limit.toNat < s.arena.cursor.toNat + nb →
          exec .bitmapBuild s = .next { s with
            fault := { code := some .arenaExhausted, info0 := BitVec.ofNat 64 nb, info1 := s.arena.cursor
                       info2 := s.arena.limit }
            halted := true, status := .fatal, res := .zero })

/-- Derived from R181, R183, R184 (the spec's own inference, R187): after a build with RESERVE_SELF = 0 the free frames
are exactly those that no non-usable entry overlaps, and equally many; the bitmap has at least as many bits as frames
and fewer than 8 more; and a frame that straddles the end of a non-usable entry is used. -/
def Obligations.BuildLaws : Prop :=
  ∀ s t : State, s.Inv → s.halted = false → s.quiet → s.reserveSelf = false → exec .bitmapBuild s = .next t →
    t.status = .ok →
    (∀ f, f < t.bitmap.frameCount.toNat →
        (t.frameBit f = false ↔ ¬ ∃ k, k < s.mmapCount.toNat ∧ s.mapMarks k f))
      ∧ t.freeBelow t.bitmap.frameCount.toNat =
        Nat.card { f : Nat // f < t.bitmap.frameCount.toNat ∧ ¬ ∃ k, k < s.mmapCount.toNat ∧ s.mapMarks k f }
      ∧ t.bitmap.frameCount.toNat ≤ 8 * t.bitmap.bytes.toNat
      ∧ 8 * t.bitmap.bytes.toNat - t.bitmap.frameCount.toNat < 8
      ∧ ∀ f k, f < t.bitmap.frameCount.toNat → k < s.mmapCount.toNat → (s.mapEntry k).type ≠ s.usableType →
          0 < (s.mapEntry k).length.toNat →
          4096 * f < (s.mapEntry k).base.toNat + (s.mapEntry k).length.toNat →
          (s.mapEntry k).base.toNat + (s.mapEntry k).length.toNat < 4096 * (f + 1) → t.frameBit f = true

/-! ### The page walker -/

/-- R212, R206: WALK_START puts the walker at the root of ARG0 with every index 0 and reads nothing; RESERVED_BIT of a
CR3 value with a bit set in 51:PHYS_BITS; BAD_CONFIG when PHYS_BITS is outside 13..52. -/
def Obligations.WalkStartResult : Prop :=
  decode 0x00000030 = .ok .walkStart ∧ ∀ s : State, s.halted = false →
    (¬ (13 ≤ s.physBits ∧ s.physBits ≤ 52) →
      exec .walkStart s = .next { s with status := .badConfig, res := .zero })
    ∧ (13 ≤ s.physBits ∧ s.physBits ≤ 52 → s.rootReserved s.args.v0 →
      exec .walkStart s = .next { s with
        fault := { code := some .reservedBit, info0 := 0, info1 := 0, info2 := s.args.v0 }
        halted := true, status := .fatal, res := .zero })
    ∧ (13 ≤ s.physBits ∧ s.physBits ≤ 52 → ¬ s.rootReserved s.args.v0 →
      exec .walkStart s = .next { s with
        walker := .active .l4
          { tbl4 := s.args.v0 &&& 0x000FFFFFFFFFF000, tbl3 := 0, tbl2 := 0, tbl1 := 0
            idx4 := 0, idx3 := 0, idx2 := 0, idx1 := 0 }
        status := .ok, res := { v0 := s.args.v0 &&& 0x000FFFFFFFFFF000, v1 := 0, v2 := 0, v3 := 0 } })

/-- Derived from R213: WALK_NEXT with no walk started, with PHYS_BITS out of range, and after the end of a walk. -/
def Obligations.WalkNextOutsideWalk : Prop :=
  decode 0x00000031 = .ok .walkNext ∧ ∀ s : State, s.halted = false →
    (s.walker = .idle → exec .walkNext s = .next { s with status := .walkIdle, res := .zero })
    ∧ (s.walker ≠ .idle → ¬ (13 ≤ s.physBits ∧ s.physBits ≤ 52) →
        exec .walkNext s = .next { s with status := .badConfig, res := .zero })
    ∧ ∀ p, s.walker = .done p → 13 ≤ s.physBits ∧ s.physBits ≤ 52 →
        exec .walkNext s = .next { s with status := .ok, res := .zero }

/-- Derived from R204, R205, R207, R208, R210, R211: what WALK_NEXT does at a position, iteration by iteration of
ADVANCE. An exhausted table pops, an entry not present is skipped, a reserved bit and a 1 GiB page are fatal with the
position unmoved, a 4 KiB or 2 MiB mapping is answered, its virtual address holding the indices in bits 47:39, 38:30,
29:21 and 20:12, any other entry leads one level down. `onPath` (of the invariant): the tables above are not
exhausted. -/
def Obligations.WalkNextIterations : Prop :=
  ∀ (s : State) (l : Level) (p : WalkPos) (e : Word), s.halted = false → s.quiet →
    13 ≤ s.physBits ∧ s.physBits ≤ 52 → s.walker = .active l p → e = s.tables.at (p.tbl l) (p.idx l).val →
    ((p.idx l).val = 512 → l = .l4 →
      exec .walkNext s = .next { s with walker := .done p, status := .ok, res := .zero })
    ∧ ((p.idx l).val = 512 → ∀ l', levelNumber l' = levelNumber l + 1 →
      exec .walkNext s = exec .walkNext { s with walker := .active l' (p.bump l') })
    ∧ ((p.idx l).val < 512 → e.getLsbD 0 = false →
      exec .walkNext s = exec .walkNext { s with walker := .active l (p.bump l) })
    ∧ ((p.idx l).val < 512 → e.getLsbD 0 = true → violation l e s.physBits s.nxe ≠ 0 →
      exec .walkNext s = .next { s with
        fault := { code := some .reservedBit, info0 := BitVec.ofNat 64 (levelNumber l)
                   info1 := p.tbl l + BitVec.ofNat 64 (8 * (p.idx l).val), info2 := e }
        halted := true, status := .fatal, res := .zero })
    ∧ ((p.idx l).val < 512 → e.getLsbD 0 = true → violation l e s.physBits s.nxe = 0 →
      (l = .l1 → p.onPath l → exec .walkNext s = .next { s with
        walker := .active l (p.bump l), status := .ok
        res := { v0 := canonicalAddress p.idx4 p.idx3 p.idx2 p.idx1, v1 := e &&& 0x000FFFFFFFFFF000
                 v2 := 0, v3 := 1 } })
      ∧ (l = .l2 → e.getLsbD 7 = true → p.onPath l → exec .walkNext s = .next { s with
        walker := .active l (p.bump l), status := .ok
        res := { v0 := canonicalAddress p.idx4 p.idx3 p.idx2 0, v1 := e &&& 0x000FFFFFFFE00000
                 v2 := 1, v3 := 1 } })
      ∧ (l = .l3 → e.getLsbD 7 = true → exec .walkNext s = .next { s with
        fault := { code := some .unsupportedPageSize, info0 := 3
                   info1 := p.tbl l + BitVec.ofNat 64 (8 * (p.idx l).val), info2 := e }
        halted := true, status := .fatal, res := .zero })
      ∧ (l = .l2 → e.getLsbD 7 = false → exec .walkNext s = exec .walkNext
        { s with walker := .active .l1 { p with tbl1 := e &&& 0x000FFFFFFFFFF000, idx1 := 0 } })
      ∧ (l = .l3 → e.getLsbD 7 = false → exec .walkNext s = exec .walkNext
        { s with walker := .active .l2 { p with tbl2 := e &&& 0x000FFFFFFFFFF000, idx2 := 0 } })
      ∧ (l = .l4 → exec .walkNext s = exec .walkNext
        { s with walker := .active .l3 { p with tbl3 := e &&& 0x000FFFFFFFFFF000, idx3 := 0 } }))

/-- Derived from R202, R204, R205, R208, R213: at any position of a walk, WALK_NEXT answers the first of the mappings
ahead and leaves the position before the others; with no mapping ahead it says that the walk is over, or, where a
reserved bit or a 1 GiB page stops the walk, ends in that fatal fault with the position at the entry. `onPath` (of the
invariant): the tables above the level being read are not exhausted. -/
def Obligations.WalkNextTakesTheNext : Prop :=
  ∀ (s : State) (l : Level) (p : WalkPos), s.halted = false → s.quiet → 13 ≤ s.physBits ∧ s.physBits ≤ 52 →
    s.walker = .active l p → p.onPath l →
    ((s.tables.ahead l p).records = [] → (s.tables.ahead l p).stop = none →
      ∃ p', exec .walkNext s = .next { s with walker := .done p', status := .ok, res := .zero })
    ∧ (∀ f, (s.tables.ahead l p).records = [] → (s.tables.ahead l p).stop = some f →
      ∃ l' p', exec .walkNext s = .next (({ s with walker := .active l' p' } : State).faulted f)
        ∧ p'.onPath l' ∧ f.info1 = entryAt (p'.tbl l') (p'.idx l').val)
    ∧ ∀ r rest, (s.tables.ahead l p).records = r :: rest →
      ∃ l' p', exec .walkNext s = .next { s with
          walker := .active l' p', status := .ok
          res := { v0 := r.va, v1 := r.pa, v2 := pageSizeCode r.size, v3 := 1 } }
        ∧ p'.onPath l' ∧ s.tables.ahead l' p' = { records := rest, stop := (s.tables.ahead l p).stop }

/-- Derived from R200, R202, R205, R208, R213: WALK_START and then WALK_NEXT, command after command, answers every
mapping of the hierarchy of the CR3 value, each once, in the order of nested loops over the four levels, and then
RES3 = 0; or, where a reserved bit or a 1 GiB page stands in the hierarchy, the mappings before it and then that fatal
fault. -/
def Obligations.WalkEnumerates : Prop :=
  ∀ s : State, s.halted = false → s.quiet → 13 ≤ s.physBits ∧ s.physBits ≤ 52 → ¬ s.rootReserved s.args.v0 →
    ∃ s1 t, exec .walkStart s = .next s1 ∧ s1.status = .ok
      ∧ s1.yields (s.tables.mappings s.args.v0).records (s.tables.mappings s.args.v0).stop t

/-- Derived from R210, R211, whatever the port answers: a record's virtual address is canonical and page-aligned, its
physical start is aligned to the page and below 2^52, and its size code is 0 or 1. -/
def Obligations.RecordsAreCanonical : Prop :=
  ∀ s t : State, exec .walkNext s = .next t → t.res.v3 ≠ 0 →
    (∀ n, 48 ≤ n → n < 64 → t.res.v0.getLsbD n = t.res.v0.getLsbD 47)
      ∧ t.res.v1.toNat < 2 ^ 52
      ∧ ((t.res.v2 = 0 ∧ t.res.v0.toNat % 4096 = 0 ∧ t.res.v1.toNat % 4096 = 0)
          ∨ (t.res.v2 = 1 ∧ t.res.v0.toNat % 0x200000 = 0 ∧ t.res.v1.toNat % 0x200000 = 0))

/-- Derived from R204, R214 (the spec's own inference, R217): a hierarchy has at most 512^4 mappings, and they map at
most 2^45 frame occurrences; and whatever the port answers, a WALK_MARK or WALK_CHECK that ends with OK answers at most
that many of each, the frames it counts apart among them. -/
def Obligations.WalkIsBounded : Prop :=
  (∀ (v : TableView) (cr3 : Word),
      (v.mappings cr3).records.length ≤ 512 ^ 4 ∧ (mappedFrames (v.mappings cr3).records).length ≤ 2 ^ 45)
    ∧ ∀ i s t, i = .walkMark ∨ i = .walkCheck → exec i s = .next t → t.status = .ok →
        t.res.v3.toNat ≤ 512 ^ 4 ∧ t.res.v1.toNat ≤ 2 ^ 45 ∧ t.res.v0.toNat + t.res.v2.toNat ≤ t.res.v1.toNat

/-- Derived from R216 (with R205, R206, R208, R214): WALK_CHECK counts the mapped frame occurrences whose bit is 0, all
of them, those at or beyond FRAME_COUNT, and the records; it writes no byte. BAD_CONFIG when PHYS_BITS is outside
13..52; RESERVED_BIT with info0 = 0 of a CR3 value with a bit set in 51:PHYS_BITS; and where a reserved bit or a 1 GiB
page stands in the hierarchy, that fatal fault, with the position at the entry. -/
def Obligations.WalkCheckCounts : Prop :=
  decode 0x00000033 = .ok .walkCheck ∧ ∀ s : State, s.halted = false → s.lifecycle ≠ .uninit →
    (¬ (13 ≤ s.physBits ∧ s.physBits ≤ 52) →
      exec .walkCheck s = .next { s with status := .badConfig, res := .zero })
    ∧ (13 ≤ s.physBits ∧ s.physBits ≤ 52 → s.rootReserved s.args.v0 →
      exec .walkCheck s = .next (s.faulted { code := .reservedBit, info0 := 0, info1 := 0, info2 := s.args.v0 }))
    ∧ (13 ≤ s.physBits ∧ s.physBits ≤ 52 → ¬ s.rootReserved s.args.v0 → s.quiet → ∀ rs,
      rs = (s.tables.mappings s.args.v0).records →
      ((s.tables.mappings s.args.v0).stop = none → ∃ p, exec .walkCheck s = .next { s with
        walker := .done p, status := .ok
        res :=
          { v0 := BitVec.ofNat 64 ((mappedFrames rs).filter
              (fun f => decide (f < s.bitmap.frameCount.toNat) && !s.frameBit f)).length
            v1 := BitVec.ofNat 64 (mappedFrames rs).length
            v2 := BitVec.ofNat 64 ((mappedFrames rs).filter
              (fun f => decide (s.bitmap.frameCount.toNat ≤ f))).length
            v3 := BitVec.ofNat 64 rs.length } })
      ∧ ∀ f, (s.tables.mappings s.args.v0).stop = some f →
        ∃ l p, exec .walkCheck s = .next (({ s with walker := .active l p } : State).faulted f)
          ∧ f.info1 = entryAt (p.tbl l) (p.idx l).val)

/-- Derived from R215 (with R78, R205, R206, R208, R214): WALK_MARK sets the bit of every mapped frame below
FRAME_COUNT and no other bit, and answers how many bits changed and the counts of WALK_CHECK. BAD_CONFIG when
PHYS_BITS is outside 13..52; RESERVED_BIT with info0 = 0 of a CR3 value with a bit set in 51:PHYS_BITS; and where a
reserved bit or a 1 GiB page stands in the hierarchy, that fatal fault, with the bits of the mappings before it set
and staying set. `tablesApart`: the bitmap lies outside the tables walked. -/
def Obligations.WalkMarkMarks : Prop :=
  decode 0x00000032 = .ok .walkMark ∧ ∀ s : State, s.halted = false → s.lifecycle = .built ∨ s.lifecycle = .inuse →
    (¬ (13 ≤ s.physBits ∧ s.physBits ≤ 52) →
      exec .walkMark s = .next { s with status := .badConfig, res := .zero })
    ∧ (13 ≤ s.physBits ∧ s.physBits ≤ 52 → s.rootReserved s.args.v0 →
      exec .walkMark s = .next (s.faulted { code := .reservedBit, info0 := 0, info1 := 0, info2 := s.args.v0 }))
    ∧ (13 ≤ s.physBits ∧ s.physBits ≤ 52 → ¬ s.rootReserved s.args.v0 → s.Inv → s.quiet → s.tablesApart s.args.v0 →
      ∀ rs, rs = (s.tables.mappings s.args.v0).records →
      ∃ (m : Memory) (t : State), exec .walkMark s = .next t
        ∧ ((s.tables.mappings s.args.v0).stop = none → ∃ p, t = { s with
            walker := .done p, mem := m, status := .ok
            res :=
              { v0 := BitVec.ofNat 64 ((List.range s.bitmap.frameCount.toNat).filter
                  (fun f => !s.frameBit f && decide (f ∈ mappedFrames rs))).length
                v1 := BitVec.ofNat 64 (mappedFrames rs).length
                v2 := BitVec.ofNat 64 ((mappedFrames rs).filter
                  (fun f => decide (s.bitmap.frameCount.toNat ≤ f))).length
                v3 := BitVec.ofNat 64 rs.length } })
        ∧ (∀ f, (s.tables.mappings s.args.v0).stop = some f →
            ∃ l p, t = ({ s with walker := .active l p, mem := m } : State).faulted f
              ∧ f.info1 = entryAt (p.tbl l) (p.idx l).val)
        ∧ (∀ f, f < 8 * s.bitmap.bytes.toNat → (t.frameBit f = true ↔
            s.frameBit f = true ∨ (f < s.bitmap.frameCount.toNat ∧ f ∈ mappedFrames rs)))
        ∧ ∀ a, (∀ f, f < s.bitmap.frameCount.toNat → f ∈ mappedFrames rs → a ≠ s.frameByteAddr f) →
            m.read a = s.mem.read a)

/-- Derived from R204, R215, R216 (the spec's own inference, R218): after WALK_MARK c ends with OK, WALK_CHECK c finds
no discrepancy and answers the same three other counts. -/
def Obligations.CheckAfterMark : Prop :=
  ∀ s t : State, s.Inv → s.quiet → s.tablesApart s.args.v0 → exec .walkMark s = .next t → t.status = .ok →
    ∃ u, exec .walkCheck t = .next u ∧ u.status = .ok ∧ u.res = { t.res with v0 := 0 }

/-- Derived from R214, R216 (the spec's own inference, R218): a WALK_CHECK that ends with OK answers RES0 = 0 exactly
when every mapped frame below FRAME_COUNT has bit 1. -/
def Obligations.CheckZeroMeansCovered : Prop :=
  ∀ s t : State, s.quiet → exec .walkCheck s = .next t → t.status = .ok →
    (t.res.v0 = 0 ↔ ∀ f, f ∈ mappedFrames (s.tables.mappings s.args.v0).records → f < s.bitmap.frameCount.toNat →
      s.frameBit f = true)

/-! ### The frame allocator -/

/-- Derived from R240: FRAME_ALLOC takes the lowest free frame, sets its bit and no other, and answers its start;
OUT_OF_MEMORY when no frame below FRAME_COUNT is free. LIFECYCLE is INUSE after either. RES0 of a frame that starts at
or above 2^64 is left open (log entry 14). -/
def Obligations.FrameAllocResult : Prop :=
  decode 0x00000040 = .ok .frameAlloc ∧ ∀ s : State, s.Inv → s.halted = false →
    (s.lifecycle = .uninit ∨ s.lifecycle = .frozen →
      exec .frameAlloc s = .next { s with status := .badState, res := .zero })
    ∧ (s.lifecycle = .built ∨ s.lifecycle = .inuse → s.quiet →
      (∀ f, f < s.bitmap.frameCount.toNat → s.frameBit f = false → (∀ g, g < f → s.frameBit g = true) →
        ∃ m t, exec .frameAlloc s = .next t
          ∧ t = { s with
              lifecycle := .inuse, mem := m, status := .ok
              res := { v0 := t.res.v0, v1 := 0, v2 := BitVec.ofNat 64 f, v3 := 0 } }
          ∧ (4096 * f < 2 ^ 64 → t.res.v0.toNat = 4096 * f)
          ∧ (∀ g, g < 8 * s.bitmap.bytes.toNat → (t.frameBit g = true ↔ s.frameBit g = true ∨ g = f))
          ∧ ∀ a, a ≠ s.frameByteAddr f → m.read a = s.mem.read a)
      ∧ ((∀ f, f < s.bitmap.frameCount.toNat → s.frameBit f = true) →
        exec .frameAlloc s = .next { s with lifecycle := .inuse, status := .outOfMemory, res := .zero }))

/-- Derived from R240 (the spec's own inference, R241): two allocations in a row answer strictly increasing frame
indices. -/
def Obligations.AllocationsIncrease : Prop :=
  ∀ s t u : State, s.Inv → s.quiet → exec .frameAlloc s = .next t → t.status = .ok → exec .frameAlloc t = .next u →
    u.status = .ok → t.res.v2.toNat < u.res.v2.toNat

/-- R242: FRAME_FREE clears the bits of the frames of the Page and no other, and answers how many changed; its checks,
in their order, change nothing. -/
def Obligations.FrameFreeResult : Prop :=
  decode 0x00000041 = .ok .frameFree ∧ ∀ s : State, s.Inv → s.halted = false →
    (s.lifecycle = .uninit ∨ s.lifecycle = .frozen →
      exec .frameFree s = .next { s with status := .badState, res := .zero })
    ∧ (s.lifecycle = .built ∨ s.lifecycle = .inuse →
      (1 < s.args.v1.toNat → exec .frameFree s = .next { s with status := .badRange, res := .zero })
      ∧ ∀ n, (s.args.v1 = 0 ∧ n = 1 ∨ s.args.v1 = 1 ∧ n = 512) →
        (s.args.v0.toNat % (4096 * n) ≠ 0 →
          exec .frameFree s = .next { s with status := .invalidAlignment, res := .zero })
        ∧ (s.args.v0.toNat % (4096 * n) = 0 → s.bitmap.frameCount.toNat < s.args.v0.toNat / 4096 + n →
          exec .frameFree s = .next { s with status := .badRange, res := .zero })
        ∧ (s.args.v0.toNat % (4096 * n) = 0 → s.args.v0.toNat / 4096 + n ≤ s.bitmap.frameCount.toNat → s.quiet →
          ∃ m t, exec .frameFree s = .next t
            ∧ t = { s with
                lifecycle := .inuse, mem := m, status := .ok
                res := { v0 := BitVec.ofNat 64 (s.usedBetween (s.args.v0.toNat / 4096) n)
                         v1 := 0, v2 := 0, v3 := 0 } }
            ∧ (∀ g, g < 8 * s.bitmap.bytes.toNat → (t.frameBit g = true ↔
                s.frameBit g = true ∧ ¬ (s.args.v0.toNat / 4096 ≤ g ∧ g < s.args.v0.toNat / 4096 + n)))
            ∧ ∀ a, (∀ g, s.args.v0.toNat / 4096 ≤ g → g < s.args.v0.toNat / 4096 + n → a ≠ s.frameByteAddr g) →
                m.read a = s.mem.read a))

/-- R243: FRAME_TEST answers one frame's bit; BAD_RANGE at or beyond FRAME_COUNT; BAD_STATE before a bitmap exists. -/
def Obligations.FrameTestResult : Prop :=
  decode 0x00000042 = .ok .frameTest ∧ ∀ s : State, s.halted = false →
    (s.lifecycle = .uninit → exec .frameTest s = .next { s with status := .badState, res := .zero })
    ∧ (s.lifecycle ≠ .uninit → s.bitmap.frameCount.toNat ≤ s.args.v0.toNat →
      exec .frameTest s = .next { s with status := .badRange, res := .zero })
    ∧ (s.lifecycle ≠ .uninit → s.args.v0.toNat < s.bitmap.frameCount.toNat → s.quiet →
      exec .frameTest s = .next { s with
        status := .ok
        res := { v0 := if s.frameBit s.args.v0.toNat then 1 else 0, v1 := 0, v2 := 0, v3 := 0 } })

/-- R244: FREE_COUNT answers how many frames below FRAME_COUNT have bit 0, and FRAME_COUNT. -/
def Obligations.FreeCountResult : Prop :=
  decode 0x00000043 = .ok .freeCount ∧ ∀ s : State, s.Inv → s.halted = false →
    (s.lifecycle = .uninit → exec .freeCount s = .next { s with status := .badState, res := .zero })
    ∧ (s.lifecycle ≠ .uninit → s.quiet →
      exec .freeCount s = .next { s with
        status := .ok
        res := { v0 := BitVec.ofNat 64 (s.freeBelow s.bitmap.frameCount.toNat), v1 := s.bitmap.frameCount
                 v2 := 0, v3 := 0 } })

/-- Derived from R245: BITMAP_FREEZE makes the bitmap FROZEN, from BUILT or INUSE. -/
def Obligations.BitmapFreezeResult : Prop :=
  decode 0x00000044 = .ok .bitmapFreeze ∧ ∀ s : State, s.halted = false →
    (s.lifecycle = .built ∨ s.lifecycle = .inuse →
      exec .bitmapFreeze s = .next { s with lifecycle := .frozen, status := .ok, res := .zero })
    ∧ (s.lifecycle = .uninit ∨ s.lifecycle = .frozen →
      exec .bitmapFreeze s = .next { s with status := .badState, res := .zero })

/-- Derived from R240, R242 (the spec's own inference, R246): freeing the frame just allocated, and allocating the
frame just freed when no lower one is free, restore all of memory. The frame starts below 2^64, so that FRAME_FREE can
name it (log entry 14). -/
def Obligations.AllocFreeToggle : Prop :=
  (∀ (s t : State) (x y : Word), s.Inv → s.quiet → exec .frameAlloc s = .next t → t.status = .ok →
      4096 * t.res.v2.toNat < 2 ^ 64 →
      ∃ u, exec .frameFree { t with args := { v0 := t.res.v0, v1 := 0, v2 := x, v3 := y } } = .next u
        ∧ u.status = .ok ∧ u.res.v0 = 1 ∧ u.mem = s.mem)
    ∧ ∀ (s t : State) (f : Nat), s.Inv → s.quiet → s.args.v0.toNat = 4096 * f → s.args.v1 = 0 →
        s.frameBit f = true → (∀ g, g < f → s.frameBit g = true) → exec .frameFree s = .next t → t.status = .ok →
        ∃ u, exec .frameAlloc t = .next u ∧ u.status = .ok ∧ u.res.v0 = s.args.v0 ∧ u.mem = s.mem

/-! ### Register access -/

/-- R270: CSR_READ answers the register ARG0 names, while halted too; BAD_ACCESS when ARG0 is no register's number. -/
def Obligations.CsrReadResult : Prop :=
  decode 0x000000F0 = .ok .csrRead ∧ ∀ s : State,
    (∀ n v, (n, v) ∈ s.registers → s.args.v0.toNat = n →
      exec .csrRead s = .next { s with status := .ok, res := { v0 := v, v1 := 0, v2 := 0, v3 := 0 } })
    ∧ ((∀ v, (s.args.v0.toNat, v) ∉ s.registers) →
      exec .csrRead s = .next { s with status := .badAccess, res := .zero })

/-- R271, R272: CSR_WRITE stores the write value of the register and answers it; the registers writable only in UNINIT
fail with BAD_STATE outside it; read-only registers and numbers of no register fail with BAD_ACCESS; nothing is written
while halted. -/
def Obligations.CsrWriteResult : Prop :=
  decode 0x000000F1 = .ok .csrWrite
    ∧ (∀ s : State, s.halted = true → exec .csrWrite s = .next { s with status := .halted, res := .zero })
    ∧ ∀ s : State, s.halted = false →
    (s.args.v0 = 0x08 → exec .csrWrite s = .next { s with
      ctrl := s.args.v1 &&& 0x3, status := .ok, res := { v0 := s.args.v1 &&& 0x3, v1 := 0, v2 := 0, v3 := 0 } })
    ∧ (s.args.v0 = 0x0C → exec .csrWrite s = .next { s with
      addrWidths := s.args.v1 &&& 0xFFFF, status := .ok
      res := { v0 := s.args.v1 &&& 0xFFFF, v1 := 0, v2 := 0, v3 := 0 } })
    ∧ (s.lifecycle = .uninit →
      (s.args.v0 = 0x09 → exec .csrWrite s = .next { s with
        dmapOffset := s.args.v1 &&& 0xFFFFFFFFFFFFF000, status := .ok
        res := { v0 := s.args.v1 &&& 0xFFFFFFFFFFFFF000, v1 := 0, v2 := 0, v3 := 0 } })
      ∧ (s.args.v0 = 0x0A → exec .csrWrite s = .next { s with
        mmapBase := s.args.v1 &&& 0xFFFFFFFFFFFFFFF8, status := .ok
        res := { v0 := s.args.v1 &&& 0xFFFFFFFFFFFFFFF8, v1 := 0, v2 := 0, v3 := 0 } })
      ∧ (s.args.v0 = 0x0B → exec .csrWrite s = .next { s with
        mmapCount := s.args.v1, status := .ok, res := { v0 := s.args.v1, v1 := 0, v2 := 0, v3 := 0 } })
      ∧ (s.args.v0 = 0x0D → exec .csrWrite s = .next { s with
        usableType := s.args.v1, status := .ok, res := { v0 := s.args.v1, v1 := 0, v2 := 0, v3 := 0 } }))
    ∧ (s.lifecycle ≠ .uninit → s.args.v0 = 0x09 ∨ s.args.v0 = 0x0A ∨ s.args.v0 = 0x0B ∨ s.args.v0 = 0x0D →
      exec .csrWrite s = .next { s with status := .badState, res := .zero })
    ∧ (s.args.v0.toNat ∈ readOnlyNumbers ∨ (∀ v, (s.args.v0.toNat, v) ∉ s.registers) →
      exec .csrWrite s = .next { s with status := .badAccess, res := .zero })

/-- Derived from R29, R270: after any command, reading STATUS answers the code of that command, and STATUS then holds
the read's own code. -/
def Obligations.StatusOfThePrevious : Prop :=
  ∀ (i : Instr) (s t : State) (a : Quad), exec i s = .next t → a.v0 = 0 →
    exec .csrRead { t with args := a } = .next { t with
      args := a, status := .ok, res := { v0 := (statusCode t.status).setWidth 64, v1 := 0, v2 := 0, v3 := 0 } }

/-! ### Rules over all commands -/

/-- R311: a halted block executes CSR_READ and RESET only; every other command, and an illegal word, fails with HALTED
and changes nothing but STATUS and RES; only RESET and the reset input clear HALTED. -/
def Obligations.HaltedRefusesCommands : Prop :=
  ∀ s : State, s.halted = true →
    (∀ i, i ≠ .csrRead → i ≠ .reset → exec i s = .next { s with status := .halted, res := .zero })
    ∧ (∀ i t, exec i s = .next t → i ≠ .reset → t.halted = true)
    ∧ (∀ t, step s = .next t → t.halted = false → ∃ x rest, s.inputs = x :: rest
        ∧ (x = .resetLine ∨ ∃ r, x = .command r ∧ decode r.cmd = .ok .reset))
    ∧ (∀ n v, (n, v) ∈ s.registers → s.args.v0.toNat = n →
        exec .csrRead s = .next { s with status := .ok, res := { v0 := v, v1 := 0, v2 := 0, v3 := 0 } })
    ∧ (∀ r rest e, s.inputs = .command r :: rest → decode r.cmd = .error e →
        step s = .next { s with args := r.args, answers := r.answers, inputs := rest, status := .halted, res := .zero })
    ∧ ∀ x rest, s.inputs = x :: rest → (x = .resetLine ∨ ∃ r, x = .command r ∧ decode r.cmd = .ok .reset) →
        ∃ t, step s = .next t ∧ t.halted = false

/-- R47: the commands each state does not permit fail with BAD_STATE and change nothing; no other command but CSR_WRITE
ever answers BAD_STATE; while halted, every command but CSR_READ and RESET fails with HALTED. -/
def Obligations.LifecycleTable : Prop :=
  ∀ s : State,
    (s.halted = true → ∀ i, i ≠ .csrRead → i ≠ .reset → exec i s = .next { s with status := .halted, res := .zero })
    ∧ (s.halted = false →
      (∀ i, (i = .arenaFind ∧ (s.lifecycle ≠ .uninit ∨ s.arenaValid = true))
          ∨ ((i = .arenaAlloc ∨ i = .bitmapBuild) ∧ (s.lifecycle ≠ .uninit ∨ s.arenaValid = false))
          ∨ ((i = .walkMark ∨ i = .frameAlloc ∨ i = .frameFree ∨ i = .bitmapFreeze)
              ∧ (s.lifecycle = .uninit ∨ s.lifecycle = .frozen))
          ∨ ((i = .walkCheck ∨ i = .frameTest ∨ i = .freeCount) ∧ s.lifecycle = .uninit) →
        exec i s = .next { s with status := .badState, res := .zero })
      ∧ ∀ i t, exec i s = .next t → t.status = .badState →
          (i = .csrWrite ∧ s.lifecycle ≠ .uninit)
          ∨ (i = .arenaFind ∧ (s.lifecycle ≠ .uninit ∨ s.arenaValid = true))
          ∨ ((i = .arenaAlloc ∨ i = .bitmapBuild) ∧ (s.lifecycle ≠ .uninit ∨ s.arenaValid = false))
          ∨ ((i = .walkMark ∨ i = .frameAlloc ∨ i = .frameFree ∨ i = .bitmapFreeze)
              ∧ (s.lifecycle = .uninit ∨ s.lifecycle = .frozen))
          ∨ ((i = .walkCheck ∨ i = .frameTest ∨ i = .freeCount) ∧ s.lifecycle = .uninit))

/-- Derived from R46, R240, R242, R309: LIFECYCLE moves along these transitions only. That FRAME_ALLOC and FRAME_FREE
have already moved it when they end in a fatal fault is the model's reading (log entry 10). -/
def Obligations.LifecycleMoves : Prop :=
  ∀ i s t, exec i s = .next t → t.lifecycle ≠ s.lifecycle →
    (i = .bitmapBuild ∧ s.lifecycle = .uninit ∧ s.arenaValid = true ∧ t.lifecycle = .built ∧ t.status = .ok)
      ∨ ((i = .frameAlloc ∨ i = .frameFree) ∧ s.lifecycle = .built ∧ t.lifecycle = .inuse
          ∧ (t.status = .ok ∨ t.status = .outOfMemory ∨ t.status = .fatal))
      ∨ (i = .bitmapFreeze ∧ (s.lifecycle = .built ∨ s.lifecycle = .inuse) ∧ t.lifecycle = .frozen ∧ t.status = .ok)
      ∨ (i = .reset ∧ t.lifecycle = .uninit)

/-- R301: a command that ends with a status other than OK and FATAL has changed nothing but STATUS, RES (all 0) and,
for OUT_OF_MEMORY, LIFECYCLE from BUILT to INUSE (the answers the port gave are used up). -/
def Obligations.RecoverableChangesNothing : Prop :=
  ∀ i s t, exec i s = .next t → t.status ≠ .ok → t.status ≠ .fatal →
    t = { s with
      status := t.status, res := .zero, answers := t.answers
      lifecycle := if t.status = .outOfMemory ∧ s.lifecycle = .built then .inuse else s.lifecycle }
    ∧ (t.status = .outOfMemory → i = .frameAlloc)

/-- Derived from R309, R31, R240, R242: from a block that is not halted, a command ends FATAL exactly when it halts the
block; then FAULT holds a code, RES is 0, and nothing else has changed but what the command had changed before the
fault: the position of a walk, the bytes of the bitmap, the arena and bitmap registers of a BITMAP_BUILD that reached
its writes, and the move of LIFECYCLE to INUSE that FRAME_ALLOC and FRAME_FREE make before their first access (the
model's reading, log entry 10). A command other than RESET that does not halt the block leaves the fault registers
alone. -/
def Obligations.FatalFaultSequence : Prop :=
  ∀ i s t, s.halted = false → exec i s = .next t →
    (t.status = .fatal ↔ t.halted = true)
      ∧ (t.halted = true → t.fault.code ≠ none
          ∧ t = { s with
              fault := t.fault, halted := true, res := .zero, status := .fatal, answers := t.answers
              walker := if i = .walkNext ∨ i = .walkMark ∨ i = .walkCheck then t.walker else s.walker
              mem := if i = .bitmapBuild ∨ i = .walkMark ∨ i = .frameAlloc ∨ i = .frameFree then t.mem else s.mem
              arena := if i = .bitmapBuild then t.arena else s.arena
              bitmap := if i = .bitmapBuild then t.bitmap else s.bitmap
              lifecycle := if i = .frameAlloc ∨ i = .frameFree then .inuse else s.lifecycle }
          ∧ (i = .bitmapBuild → t.fault.code ≠ some .busError ∨ t.fault.info2 = 0 →
              t.arena = s.arena ∧ t.bitmap = s.bitmap ∧ t.mem = s.mem))
      ∧ (t.halted = false → i ≠ .reset → t.fault = s.fault)

/-- Derived from R61, R81, R305 (the spec's own inference, R306): the fatal faults each command can raise; a BUS_ERROR
only when PORT_CAN_ERROR is true. -/
def Obligations.FaultsOfCommands : Prop :=
  ∀ i s t c, s.halted = false → exec i s = .next t → t.halted = true → t.fault.code = some c →
    c ∈ faultsOf i ∧ (c = .busError → s.config.portCanError = true)

/-- Derived from R61, R185, R247: a command writes no byte of memory but bytes of the bitmap, and only BITMAP_BUILD,
WALK_MARK, FRAME_ALLOC and FRAME_FREE write any, whatever the port answers. -/
def Obligations.OnlyBitmapBytesWritten : Prop :=
  ∀ i s t, s.Inv → exec i s = .next t →
    (∀ a, (∀ k, k < t.bitmap.bytes.toNat → a ≠ t.bitmapAddr k) → t.mem.read a = s.mem.read a)
      ∧ (i ≠ .bitmapBuild → i ≠ .walkMark → i ≠ .frameAlloc → i ≠ .frameFree → t.mem = s.mem)

/-- Derived from R25, R39, R40, R203, R272: which commands write the configuration registers, the bitmap registers,
ARENA_VALID and the walker; no command writes ARG0..ARG3. -/
def Obligations.RegisterOwners : Prop :=
  ∀ i s t, exec i s = .next t → i ≠ .reset →
    t.args = s.args ∧ t.inputs = s.inputs ∧ t.config = s.config
      ∧ (i ≠ .csrWrite → t.ctrl = s.ctrl ∧ t.dmapOffset = s.dmapOffset ∧ t.mmapBase = s.mmapBase
          ∧ t.mmapCount = s.mmapCount ∧ t.addrWidths = s.addrWidths ∧ t.usableType = s.usableType)
      ∧ (i ≠ .bitmapBuild → t.bitmap = s.bitmap)
      ∧ (i ≠ .arenaFind → i ≠ .bitmapBuild → t.arenaValid = s.arenaValid)
      ∧ (i ≠ .walkStart → i ≠ .walkNext → i ≠ .walkMark → i ≠ .walkCheck → t.walker = s.walker)

/-! ### The memory port -/

/-- Derived from R62, R65: an 8-byte read is little-endian, its byte addresses modulo 2^64. -/
def Obligations.LittleEndianRead : Prop :=
  ∀ (m : Memory) (a : Word), (m.readWord a).toNat =
    ((List.range 8).map (fun k => (m.read (a + BitVec.ofNat 64 k)).toNat * 2 ^ (8 * k))).sum

/-- Derived from R33, R34, R44, R206 (the spec's own inference, R64): every 8-byte read is 8-aligned: of an entry of a
table of the walker, of an entry of the root table of any CR3 value or of the table that any entry points to, which are
the tables a walk reaches, and of a memory-map word. -/
def Obligations.ReadsAreAligned : Prop :=
  ∀ s : State, s.Inv →
    (∀ l i, i < 512 →
        (s.phys ((walkerPos s.walker).tbl l + BitVec.ofNat 64 (8 * i))).toNat % 8 = 0)
      ∧ (∀ (cr3 e : Word) (i : Nat), i < 512 →
        (s.phys (rootTable cr3 + BitVec.ofNat 64 (8 * i))).toNat % 8 = 0
          ∧ (s.phys ((e &&& addrMask) + BitVec.ofNat 64 (8 * i))).toNat % 8 = 0)
      ∧ ∀ k j : Nat, j = 0 ∨ j = 8 ∨ j = 16 → (s.entryAddr k + BitVec.ofNat 64 j).toNat % 8 = 0

/-- Derived from R81, R242, R305: an access answered with an error ends the command at it with BUS_ERROR, the port
address and the direction: the read of FRAME_TEST, the write of FRAME_FREE, the first map word of ARENA_FIND and the
entry of WALK_NEXT. The byte an erroneous write leaves is free (log entry 9), and LIFECYCLE is INUSE after a
FRAME_FREE that ends so (the model's reading, log entry 10). The other accesses are in BusErrorsInLoops and
FirstErrorEndsTheCommand. -/
def Obligations.BusErrors : Prop :=
  ∀ s : State, s.halted = false → s.config.portCanError = true →
    (∀ x rest, s.lifecycle ≠ .uninit → s.args.v0.toNat < s.bitmap.frameCount.toNat → s.answers = .error x :: rest →
      exec .frameTest s = .next { s with
        fault := { code := some .busError, info0 := 0, info1 := s.frameByteAddr s.args.v0.toNat, info2 := 0 }
        halted := true, status := .fatal, res := .zero, answers := rest })
    ∧ (∀ f x rest, s.lifecycle = .built ∨ s.lifecycle = .inuse → s.args.v0.toNat = 4096 * f → s.args.v1 = 0 →
      f < s.bitmap.frameCount.toNat → s.frameBit f = true → s.answers = .normal :: .error x :: rest →
      exec .frameFree s = .next { s with
        fault := { code := some .busError, info0 := 0, info1 := s.frameByteAddr f, info2 := 1 }
        halted := true, status := .fatal, res := .zero, answers := rest, lifecycle := .inuse
        mem := s.mem.write (s.frameByteAddr f) x })
    ∧ (∀ x rest, s.lifecycle = .uninit → s.arenaValid = false → ¬ s.overMax → (∃ j, s.args.v1.toNat = 2 ^ j) →
      0 < s.mmapCount.toNat → s.answers = .error x :: rest →
      exec .arenaFind s = .next { s with
        fault := { code := some .busError, info0 := 0, info1 := s.mmapBase, info2 := 0 }
        halted := true, status := .fatal, res := .zero, answers := rest })
    ∧ ∀ l p x rest, s.walker = .active l p → (p.idx l).val < 512 → 13 ≤ s.physBits ∧ s.physBits ≤ 52 →
      s.answers = .error x :: rest →
      exec .walkNext s = .next { s with
        fault := { code := some .busError, info0 := 0
                   info1 := s.phys (p.tbl l + BitVec.ofNat 64 (8 * (p.idx l).val)), info2 := 0 }
        halted := true, status := .fatal, res := .zero, answers := rest }

/-- Derived from R79 and 93_implementation_defined.md I15: a read that races with another agent returns any value v,
and the command goes on with it: FRAME_TEST answers v's bit, and ADVANCE interprets v as the entry. -/
def Obligations.RacingReads : Prop :=
  ∀ (s : State) (v : Word) (rest : List PortAnswer), s.halted = false → s.answers = .raced v :: rest →
    (s.lifecycle ≠ .uninit → s.args.v0.toNat < s.bitmap.frameCount.toNat →
      exec .frameTest s = .next { s with
        status := .ok, answers := rest
        res := { v0 := if v.getLsbD (s.args.v0.toNat % 8) then 1 else 0, v1 := 0, v2 := 0, v3 := 0 } })
    ∧ ∀ p, s.walker = .active .l1 p → p.onPath .l1 → p.idx1.val < 512 → 13 ≤ s.physBits ∧ s.physBits ≤ 52 →
      v.getLsbD 0 = true → violation .l1 v s.physBits s.nxe = 0 →
      exec .walkNext s = .next { s with
        walker := .active .l1 (p.bump .l1), status := .ok, answers := rest
        res := { v0 := canonicalAddress p.idx4 p.idx3 p.idx2 p.idx1, v1 := v &&& 0x000FFFFFFFFFF000
                 v2 := 0, v3 := 1 } }

/-! ### The invariant -/

/-- Derived from R330, R332: the invariant of the block holds after reset (that memory then lists nothing is log
entry 4). -/
def Obligations.InvAtReset : Prop := State.reset.Inv

/-- Derived from R32-R35, R38-R44, R84, R204, R309: every step keeps the invariant, from every state that has it:
whatever the command, the operands, the port's answers, the parameters and the other agents' stores. -/
def Obligations.StepKeepsInv : Prop := ∀ s t : State, s.Inv → step s = .next t → t.Inv

/-! ### The port addresses, and where a port error ends a command -/

/-- Derived from R14, R41, R60, R65, R70, R72, R73: the port address of a physical address, of a word of a memory-map
entry, of a bitmap byte, of the byte that holds a frame's bit, and of an entry of a page table, modulo 2^64. -/
def Obligations.PortAddresses : Prop :=
  ∀ s : State,
    (∀ p, (s.phys p).toNat = (p.toNat + s.dmapOffset.toNat) % 2 ^ 64)
      ∧ (∀ k j : Nat, (s.entryAddr k + BitVec.ofNat 64 j).toNat = (s.mmapBase.toNat + 24 * k + j) % 2 ^ 64)
      ∧ (∀ k, (s.bitmapAddr k).toNat = (s.bitmap.base.toNat + k + s.dmapOffset.toNat) % 2 ^ 64)
      ∧ (∀ f, (s.frameByteAddr f).toNat = (s.bitmap.base.toNat + f / 8 + s.dmapOffset.toNat) % 2 ^ 64)
      ∧ ∀ T i, (s.phys (entryAt T i)).toNat = (T.toNat + 8 * i + s.dmapOffset.toNat) % 2 ^ 64

/-- Derived from R81, R71, R78, R180, R215, R216, R240, R244: where an access answered with an error ends the commands
that make many: ARENA_FIND and BITMAP_BUILD at any word of the memory map, BITMAP_BUILD at any byte it writes (those
before it written, that one left free, log entry 9), WALK_CHECK and WALK_MARK at the first entry, FREE_COUNT at any
byte, FRAME_ALLOC at any byte it reads and at the one it writes. LIFECYCLE is then INUSE (the model's
reading, log entry 10). -/
def Obligations.BusErrorsInLoops : Prop :=
  ∀ (s : State) (before rest : List PortAnswer) (x : Byte), s.halted = false → s.config.portCanError = true →
    s.answers = before ++ .error x :: rest → (∀ y, .error y ∉ before) →
    (∀ i, (i = .arenaFind ∧ s.arenaValid = false ∧ (∃ j, s.args.v1.toNat = 2 ^ j))
        ∨ (i = .bitmapBuild ∧ s.arenaValid = true) → s.lifecycle = .uninit → ¬ s.overMax →
      before.length < 3 * s.mmapCount.toNat →
      exec i s = .next (({ s with answers := rest } : State).faulted
        { code := .busError, info0 := 0, info2 := 0
          info1 := s.entryAddr (before.length / 3) + BitVec.ofNat 64 (8 * (before.length % 3)) }))
    ∧ (∀ span nb j, s.lifecycle = .uninit → s.arenaValid = true → ¬ s.overMax → s.mem.wf = true → s.spanIs span →
      nb = (span / 4096 + 7) / 8 → s.arena.cursor.toNat + nb ≤ s.arena.limit.toNat → j < nb →
      before = List.replicate (3 * s.mmapCount.toNat + j) .normal →
      ∃ (m : Memory) (b : State), b = { s with
          mem := m, answers := rest
          arena := { s.arena with cursor := BitVec.ofNat 64 (s.arena.cursor.toNat + nb) }
          bitmap := { base := s.arena.cursor, bytes := BitVec.ofNat 64 nb, frameCount := BitVec.ofNat 64 (span / 4096) } }
        ∧ exec .bitmapBuild s = .next (b.faulted
          { code := .busError, info0 := 0, info1 := b.bitmapAddr j, info2 := 1 })
        ∧ (∀ f, f < 8 * j → (b.frameBit f = true ↔
            span / 4096 ≤ f ∨ (∃ k, k < s.mmapCount.toNat ∧ s.mapMarks k f)
              ∨ (s.reserveSelf = true ∧ 0 < nb ∧ s.arena.cursor.toNat < 4096 * (f + 1)
                  ∧ 4096 * f < s.arena.cursor.toNat + nb)))
        ∧ m.read (b.bitmapAddr j) = x
        ∧ ∀ a, (∀ k, k ≤ j → a ≠ b.bitmapAddr k) → m.read a = s.mem.read a)
    ∧ (∀ i, (i = .walkCheck ∧ s.lifecycle ≠ .uninit)
        ∨ (i = .walkMark ∧ (s.lifecycle = .built ∨ s.lifecycle = .inuse)) → 13 ≤ s.physBits ∧ s.physBits ≤ 52 →
      ¬ s.rootReserved s.args.v0 → before = [] →
      exec i s = .next (({ s with
          answers := rest
          walker := .active .l4
            { tbl4 := s.args.v0 &&& 0x000FFFFFFFFFF000, tbl3 := 0, tbl2 := 0, tbl1 := 0
              idx4 := 0, idx3 := 0, idx2 := 0, idx1 := 0 } } : State).faulted
        { code := .busError, info0 := 0, info1 := s.phys (s.args.v0 &&& 0x000FFFFFFFFFF000), info2 := 0 }))
    ∧ (s.lifecycle ≠ .uninit → before.length < s.bitmap.bytes.toNat →
      exec .freeCount s = .next (({ s with answers := rest } : State).faulted
        { code := .busError, info0 := 0, info1 := s.bitmapAddr before.length, info2 := 0 }))
    ∧ (s.Inv → s.lifecycle = .built ∨ s.lifecycle = .inuse →
      (∀ j, j < s.bitmap.bytes.toNat → before = List.replicate j .normal →
        (∀ g, g < 8 * j → s.frameBit g = true) →
        exec .frameAlloc s = .next
          (({ s with answers := rest, lifecycle := .inuse } : State).faulted
            { code := .busError, info0 := 0, info1 := s.bitmapAddr j, info2 := 0 }))
      ∧ ∀ f, f < s.bitmap.frameCount.toNat → s.frameBit f = false → (∀ g, g < f → s.frameBit g = true) →
        before = List.replicate (f / 8 + 1) .normal →
        exec .frameAlloc s = .next
          (({ s with answers := rest, lifecycle := .inuse, mem := s.mem.write (s.frameByteAddr f) x } : State).faulted
            { code := .busError, info0 := 0, info1 := s.frameByteAddr f, info2 := 1 }))

/-- Derived from R61, R75, R78, R81, R305: whatever the port answers, a command uses up its answers in order, ends in
BUS_ERROR exactly when it meets an error, at the first one, and the fault holds the port address of that access and its
direction; the access is one that R61 gives the command, and where the order of the accesses does not depend on what
was read, the one of that number. -/
def Obligations.FirstErrorEndsTheCommand : Prop :=
  ∀ i s t, s.halted = false → s.config.portCanError = true → i ≠ .reset → exec i s = .next t →
    ∃ used, s.answers = used ++ t.answers
      ∧ (((∀ y, .error y ∉ used) ∧ ¬ (t.halted = true ∧ t.fault.code = some .busError))
        ∨ ∃ before x a write, used = before ++ [.error x] ∧ (∀ y, .error y ∉ before) ∧ t.halted = true
          ∧ t.fault = { code := some .busError, info0 := 0, info1 := a, info2 := if write = true then 1 else 0 }
          ∧ s.accesses i t before.length a write)
end

