-- ==== Sys2Proof/Laws/State.lean ====
section
/-! SUPPORT. One lemma per field per named update of the state, tagged simp, so that no proof unfolds an update. -/

namespace Sys2Proof.Machine

/-! ### finish -/

@[simp] theorem finish_args (r : Quad) (s : State) : (finish r s).args = s.args := rfl
@[simp] theorem finish_res (r : Quad) (s : State) : (finish r s).res = r := rfl
@[simp] theorem finish_status (r : Quad) (s : State) : (finish r s).status = .ok := rfl
@[simp] theorem finish_lifecycle (r : Quad) (s : State) : (finish r s).lifecycle = s.lifecycle := rfl
@[simp] theorem finish_arenaValid (r : Quad) (s : State) : (finish r s).arenaValid = s.arenaValid := rfl
@[simp] theorem finish_halted (r : Quad) (s : State) : (finish r s).halted = s.halted := rfl
@[simp] theorem finish_walker (r : Quad) (s : State) : (finish r s).walker = s.walker := rfl
@[simp] theorem finish_fault (r : Quad) (s : State) : (finish r s).fault = s.fault := rfl
@[simp] theorem finish_ctrl (r : Quad) (s : State) : (finish r s).ctrl = s.ctrl := rfl
@[simp] theorem finish_dmapOffset (r : Quad) (s : State) : (finish r s).dmapOffset = s.dmapOffset := rfl
@[simp] theorem finish_mmapBase (r : Quad) (s : State) : (finish r s).mmapBase = s.mmapBase := rfl
@[simp] theorem finish_mmapCount (r : Quad) (s : State) : (finish r s).mmapCount = s.mmapCount := rfl
@[simp] theorem finish_addrWidths (r : Quad) (s : State) : (finish r s).addrWidths = s.addrWidths := rfl
@[simp] theorem finish_usableType (r : Quad) (s : State) : (finish r s).usableType = s.usableType := rfl
@[simp] theorem finish_arena (r : Quad) (s : State) : (finish r s).arena = s.arena := rfl
@[simp] theorem finish_bitmap (r : Quad) (s : State) : (finish r s).bitmap = s.bitmap := rfl
@[simp] theorem finish_mem (r : Quad) (s : State) : (finish r s).mem = s.mem := rfl
@[simp] theorem finish_inputs (r : Quad) (s : State) : (finish r s).inputs = s.inputs := rfl
@[simp] theorem finish_answers (r : Quad) (s : State) : (finish r s).answers = s.answers := rfl
@[simp] theorem finish_config (r : Quad) (s : State) : (finish r s).config = s.config := rfl

/-! ### fail -/

@[simp] theorem fail_args (st : Status) (s : State) : (fail st s).args = s.args := rfl
@[simp] theorem fail_res (st : Status) (s : State) : (fail st s).res = .zero := rfl
@[simp] theorem fail_status (st : Status) (s : State) : (fail st s).status = st := rfl
@[simp] theorem fail_lifecycle (st : Status) (s : State) : (fail st s).lifecycle = s.lifecycle := rfl
@[simp] theorem fail_arenaValid (st : Status) (s : State) : (fail st s).arenaValid = s.arenaValid := rfl
@[simp] theorem fail_halted (st : Status) (s : State) : (fail st s).halted = s.halted := rfl
@[simp] theorem fail_walker (st : Status) (s : State) : (fail st s).walker = s.walker := rfl
@[simp] theorem fail_fault (st : Status) (s : State) : (fail st s).fault = s.fault := rfl
@[simp] theorem fail_ctrl (st : Status) (s : State) : (fail st s).ctrl = s.ctrl := rfl
@[simp] theorem fail_dmapOffset (st : Status) (s : State) : (fail st s).dmapOffset = s.dmapOffset := rfl
@[simp] theorem fail_mmapBase (st : Status) (s : State) : (fail st s).mmapBase = s.mmapBase := rfl
@[simp] theorem fail_mmapCount (st : Status) (s : State) : (fail st s).mmapCount = s.mmapCount := rfl
@[simp] theorem fail_addrWidths (st : Status) (s : State) : (fail st s).addrWidths = s.addrWidths := rfl
@[simp] theorem fail_usableType (st : Status) (s : State) : (fail st s).usableType = s.usableType := rfl
@[simp] theorem fail_arena (st : Status) (s : State) : (fail st s).arena = s.arena := rfl
@[simp] theorem fail_bitmap (st : Status) (s : State) : (fail st s).bitmap = s.bitmap := rfl
@[simp] theorem fail_mem (st : Status) (s : State) : (fail st s).mem = s.mem := rfl
@[simp] theorem fail_inputs (st : Status) (s : State) : (fail st s).inputs = s.inputs := rfl
@[simp] theorem fail_answers (st : Status) (s : State) : (fail st s).answers = s.answers := rfl
@[simp] theorem fail_config (st : Status) (s : State) : (fail st s).config = s.config := rfl

/-! ### raiseFatal -/

@[simp] theorem raiseFatal_args (f : FatalFault) (s : State) : (raiseFatal f s).args = s.args := rfl
@[simp] theorem raiseFatal_res (f : FatalFault) (s : State) : (raiseFatal f s).res = .zero := rfl
@[simp] theorem raiseFatal_status (f : FatalFault) (s : State) : (raiseFatal f s).status = .fatal := rfl
@[simp] theorem raiseFatal_lifecycle (f : FatalFault) (s : State) : (raiseFatal f s).lifecycle = s.lifecycle := rfl
@[simp] theorem raiseFatal_arenaValid (f : FatalFault) (s : State) : (raiseFatal f s).arenaValid = s.arenaValid := rfl
@[simp] theorem raiseFatal_halted (f : FatalFault) (s : State) : (raiseFatal f s).halted = true := rfl
@[simp] theorem raiseFatal_walker (f : FatalFault) (s : State) : (raiseFatal f s).walker = s.walker := rfl
@[simp] theorem raiseFatal_fault (f : FatalFault) (s : State) : (raiseFatal f s).fault = { code := some f.code, info0 := f.info0, info1 := f.info1, info2 := f.info2 } := rfl
@[simp] theorem raiseFatal_ctrl (f : FatalFault) (s : State) : (raiseFatal f s).ctrl = s.ctrl := rfl
@[simp] theorem raiseFatal_dmapOffset (f : FatalFault) (s : State) : (raiseFatal f s).dmapOffset = s.dmapOffset := rfl
@[simp] theorem raiseFatal_mmapBase (f : FatalFault) (s : State) : (raiseFatal f s).mmapBase = s.mmapBase := rfl
@[simp] theorem raiseFatal_mmapCount (f : FatalFault) (s : State) : (raiseFatal f s).mmapCount = s.mmapCount := rfl
@[simp] theorem raiseFatal_addrWidths (f : FatalFault) (s : State) : (raiseFatal f s).addrWidths = s.addrWidths := rfl
@[simp] theorem raiseFatal_usableType (f : FatalFault) (s : State) : (raiseFatal f s).usableType = s.usableType := rfl
@[simp] theorem raiseFatal_arena (f : FatalFault) (s : State) : (raiseFatal f s).arena = s.arena := rfl
@[simp] theorem raiseFatal_bitmap (f : FatalFault) (s : State) : (raiseFatal f s).bitmap = s.bitmap := rfl
@[simp] theorem raiseFatal_mem (f : FatalFault) (s : State) : (raiseFatal f s).mem = s.mem := rfl
@[simp] theorem raiseFatal_inputs (f : FatalFault) (s : State) : (raiseFatal f s).inputs = s.inputs := rfl
@[simp] theorem raiseFatal_answers (f : FatalFault) (s : State) : (raiseFatal f s).answers = s.answers := rfl
@[simp] theorem raiseFatal_config (f : FatalFault) (s : State) : (raiseFatal f s).config = s.config := rfl

/-! ### resetBlock -/

@[simp] theorem resetBlock_args (s : State) : (resetBlock s).args = State.reset.args := rfl
@[simp] theorem resetBlock_res (s : State) : (resetBlock s).res = State.reset.res := rfl
@[simp] theorem resetBlock_status (s : State) : (resetBlock s).status = State.reset.status := rfl
@[simp] theorem resetBlock_lifecycle (s : State) : (resetBlock s).lifecycle = State.reset.lifecycle := rfl
@[simp] theorem resetBlock_arenaValid (s : State) : (resetBlock s).arenaValid = State.reset.arenaValid := rfl
@[simp] theorem resetBlock_halted (s : State) : (resetBlock s).halted = State.reset.halted := rfl
@[simp] theorem resetBlock_walker (s : State) : (resetBlock s).walker = State.reset.walker := rfl
@[simp] theorem resetBlock_fault (s : State) : (resetBlock s).fault = State.reset.fault := rfl
@[simp] theorem resetBlock_ctrl (s : State) : (resetBlock s).ctrl = State.reset.ctrl := rfl
@[simp] theorem resetBlock_dmapOffset (s : State) : (resetBlock s).dmapOffset = State.reset.dmapOffset := rfl
@[simp] theorem resetBlock_mmapBase (s : State) : (resetBlock s).mmapBase = State.reset.mmapBase := rfl
@[simp] theorem resetBlock_mmapCount (s : State) : (resetBlock s).mmapCount = State.reset.mmapCount := rfl
@[simp] theorem resetBlock_addrWidths (s : State) : (resetBlock s).addrWidths = State.reset.addrWidths := rfl
@[simp] theorem resetBlock_usableType (s : State) : (resetBlock s).usableType = State.reset.usableType := rfl
@[simp] theorem resetBlock_arena (s : State) : (resetBlock s).arena = State.reset.arena := rfl
@[simp] theorem resetBlock_bitmap (s : State) : (resetBlock s).bitmap = State.reset.bitmap := rfl
@[simp] theorem resetBlock_mem (s : State) : (resetBlock s).mem = s.mem := rfl
@[simp] theorem resetBlock_inputs (s : State) : (resetBlock s).inputs = s.inputs := rfl
@[simp] theorem resetBlock_answers (s : State) : (resetBlock s).answers = s.answers := rfl
@[simp] theorem resetBlock_config (s : State) : (resetBlock s).config = s.config := rfl

/-! ### dropAnswer -/

@[simp] theorem dropAnswer_args (s : State) : (s.dropAnswer).args = s.args := rfl
@[simp] theorem dropAnswer_res (s : State) : (s.dropAnswer).res = s.res := rfl
@[simp] theorem dropAnswer_status (s : State) : (s.dropAnswer).status = s.status := rfl
@[simp] theorem dropAnswer_lifecycle (s : State) : (s.dropAnswer).lifecycle = s.lifecycle := rfl
@[simp] theorem dropAnswer_arenaValid (s : State) : (s.dropAnswer).arenaValid = s.arenaValid := rfl
@[simp] theorem dropAnswer_halted (s : State) : (s.dropAnswer).halted = s.halted := rfl
@[simp] theorem dropAnswer_walker (s : State) : (s.dropAnswer).walker = s.walker := rfl
@[simp] theorem dropAnswer_fault (s : State) : (s.dropAnswer).fault = s.fault := rfl
@[simp] theorem dropAnswer_ctrl (s : State) : (s.dropAnswer).ctrl = s.ctrl := rfl
@[simp] theorem dropAnswer_dmapOffset (s : State) : (s.dropAnswer).dmapOffset = s.dmapOffset := rfl
@[simp] theorem dropAnswer_mmapBase (s : State) : (s.dropAnswer).mmapBase = s.mmapBase := rfl
@[simp] theorem dropAnswer_mmapCount (s : State) : (s.dropAnswer).mmapCount = s.mmapCount := rfl
@[simp] theorem dropAnswer_addrWidths (s : State) : (s.dropAnswer).addrWidths = s.addrWidths := rfl
@[simp] theorem dropAnswer_usableType (s : State) : (s.dropAnswer).usableType = s.usableType := rfl
@[simp] theorem dropAnswer_arena (s : State) : (s.dropAnswer).arena = s.arena := rfl
@[simp] theorem dropAnswer_bitmap (s : State) : (s.dropAnswer).bitmap = s.bitmap := rfl
@[simp] theorem dropAnswer_mem (s : State) : (s.dropAnswer).mem = s.mem := rfl
@[simp] theorem dropAnswer_inputs (s : State) : (s.dropAnswer).inputs = s.inputs := rfl
@[simp] theorem dropAnswer_answers (s : State) : (s.dropAnswer).answers = s.answers.tail := rfl
@[simp] theorem dropAnswer_config (s : State) : (s.dropAnswer).config = s.config := rfl

/-! ### enterUse -/

@[simp] theorem enterUse_args (s : State) : (s.enterUse).args = s.args := by unfold State.enterUse; split <;> rfl
@[simp] theorem enterUse_res (s : State) : (s.enterUse).res = s.res := by unfold State.enterUse; split <;> rfl
@[simp] theorem enterUse_status (s : State) : (s.enterUse).status = s.status := by unfold State.enterUse; split <;> rfl
@[simp] theorem enterUse_lifecycle (s : State) : (s.enterUse).lifecycle = if s.lifecycle = .built then .inuse else s.lifecycle := by unfold State.enterUse; split <;> rfl
@[simp] theorem enterUse_arenaValid (s : State) : (s.enterUse).arenaValid = s.arenaValid := by unfold State.enterUse; split <;> rfl
@[simp] theorem enterUse_halted (s : State) : (s.enterUse).halted = s.halted := by unfold State.enterUse; split <;> rfl
@[simp] theorem enterUse_walker (s : State) : (s.enterUse).walker = s.walker := by unfold State.enterUse; split <;> rfl
@[simp] theorem enterUse_fault (s : State) : (s.enterUse).fault = s.fault := by unfold State.enterUse; split <;> rfl
@[simp] theorem enterUse_ctrl (s : State) : (s.enterUse).ctrl = s.ctrl := by unfold State.enterUse; split <;> rfl
@[simp] theorem enterUse_dmapOffset (s : State) : (s.enterUse).dmapOffset = s.dmapOffset := by unfold State.enterUse; split <;> rfl
@[simp] theorem enterUse_mmapBase (s : State) : (s.enterUse).mmapBase = s.mmapBase := by unfold State.enterUse; split <;> rfl
@[simp] theorem enterUse_mmapCount (s : State) : (s.enterUse).mmapCount = s.mmapCount := by unfold State.enterUse; split <;> rfl
@[simp] theorem enterUse_addrWidths (s : State) : (s.enterUse).addrWidths = s.addrWidths := by unfold State.enterUse; split <;> rfl
@[simp] theorem enterUse_usableType (s : State) : (s.enterUse).usableType = s.usableType := by unfold State.enterUse; split <;> rfl
@[simp] theorem enterUse_arena (s : State) : (s.enterUse).arena = s.arena := by unfold State.enterUse; split <;> rfl
@[simp] theorem enterUse_bitmap (s : State) : (s.enterUse).bitmap = s.bitmap := by unfold State.enterUse; split <;> rfl
@[simp] theorem enterUse_mem (s : State) : (s.enterUse).mem = s.mem := by unfold State.enterUse; split <;> rfl
@[simp] theorem enterUse_inputs (s : State) : (s.enterUse).inputs = s.inputs := by unfold State.enterUse; split <;> rfl
@[simp] theorem enterUse_answers (s : State) : (s.enterUse).answers = s.answers := by unfold State.enterUse; split <;> rfl
@[simp] theorem enterUse_config (s : State) : (s.enterUse).config = s.config := by unfold State.enterUse; split <;> rfl

/-! ### setArena -/

@[simp] theorem setArena_args (s : State) (start size : Nat) : (s.setArena start size).args = s.args := rfl
@[simp] theorem setArena_res (s : State) (start size : Nat) : (s.setArena start size).res = s.res := rfl
@[simp] theorem setArena_status (s : State) (start size : Nat) : (s.setArena start size).status = s.status := rfl
@[simp] theorem setArena_lifecycle (s : State) (start size : Nat) : (s.setArena start size).lifecycle = s.lifecycle := rfl
@[simp] theorem setArena_arenaValid (s : State) (start size : Nat) : (s.setArena start size).arenaValid = true := rfl
@[simp] theorem setArena_halted (s : State) (start size : Nat) : (s.setArena start size).halted = s.halted := rfl
@[simp] theorem setArena_walker (s : State) (start size : Nat) : (s.setArena start size).walker = s.walker := rfl
@[simp] theorem setArena_fault (s : State) (start size : Nat) : (s.setArena start size).fault = s.fault := rfl
@[simp] theorem setArena_ctrl (s : State) (start size : Nat) : (s.setArena start size).ctrl = s.ctrl := rfl
@[simp] theorem setArena_dmapOffset (s : State) (start size : Nat) : (s.setArena start size).dmapOffset = s.dmapOffset := rfl
@[simp] theorem setArena_mmapBase (s : State) (start size : Nat) : (s.setArena start size).mmapBase = s.mmapBase := rfl
@[simp] theorem setArena_mmapCount (s : State) (start size : Nat) : (s.setArena start size).mmapCount = s.mmapCount := rfl
@[simp] theorem setArena_addrWidths (s : State) (start size : Nat) : (s.setArena start size).addrWidths = s.addrWidths := rfl
@[simp] theorem setArena_usableType (s : State) (start size : Nat) : (s.setArena start size).usableType = s.usableType := rfl
@[simp] theorem setArena_arena (s : State) (start size : Nat) : (s.setArena start size).arena = { base := BitVec.ofNat 64 start, limit := BitVec.ofNat 64 (start + size), cursor := BitVec.ofNat 64 start } := rfl
@[simp] theorem setArena_bitmap (s : State) (start size : Nat) : (s.setArena start size).bitmap = s.bitmap := rfl
@[simp] theorem setArena_mem (s : State) (start size : Nat) : (s.setArena start size).mem = s.mem := rfl
@[simp] theorem setArena_inputs (s : State) (start size : Nat) : (s.setArena start size).inputs = s.inputs := rfl
@[simp] theorem setArena_answers (s : State) (start size : Nat) : (s.setArena start size).answers = s.answers := rfl
@[simp] theorem setArena_config (s : State) (start size : Nat) : (s.setArena start size).config = s.config := rfl

/-! ### setBitmap -/

@[simp] theorem setBitmap_args (s : State) (start bytes frames : Nat) : (s.setBitmap start bytes frames).args = s.args := rfl
@[simp] theorem setBitmap_res (s : State) (start bytes frames : Nat) : (s.setBitmap start bytes frames).res = s.res := rfl
@[simp] theorem setBitmap_status (s : State) (start bytes frames : Nat) : (s.setBitmap start bytes frames).status = s.status := rfl
@[simp] theorem setBitmap_lifecycle (s : State) (start bytes frames : Nat) : (s.setBitmap start bytes frames).lifecycle = s.lifecycle := rfl
@[simp] theorem setBitmap_arenaValid (s : State) (start bytes frames : Nat) : (s.setBitmap start bytes frames).arenaValid = s.arenaValid := rfl
@[simp] theorem setBitmap_halted (s : State) (start bytes frames : Nat) : (s.setBitmap start bytes frames).halted = s.halted := rfl
@[simp] theorem setBitmap_walker (s : State) (start bytes frames : Nat) : (s.setBitmap start bytes frames).walker = s.walker := rfl
@[simp] theorem setBitmap_fault (s : State) (start bytes frames : Nat) : (s.setBitmap start bytes frames).fault = s.fault := rfl
@[simp] theorem setBitmap_ctrl (s : State) (start bytes frames : Nat) : (s.setBitmap start bytes frames).ctrl = s.ctrl := rfl
@[simp] theorem setBitmap_dmapOffset (s : State) (start bytes frames : Nat) : (s.setBitmap start bytes frames).dmapOffset = s.dmapOffset := rfl
@[simp] theorem setBitmap_mmapBase (s : State) (start bytes frames : Nat) : (s.setBitmap start bytes frames).mmapBase = s.mmapBase := rfl
@[simp] theorem setBitmap_mmapCount (s : State) (start bytes frames : Nat) : (s.setBitmap start bytes frames).mmapCount = s.mmapCount := rfl
@[simp] theorem setBitmap_addrWidths (s : State) (start bytes frames : Nat) : (s.setBitmap start bytes frames).addrWidths = s.addrWidths := rfl
@[simp] theorem setBitmap_usableType (s : State) (start bytes frames : Nat) : (s.setBitmap start bytes frames).usableType = s.usableType := rfl
@[simp] theorem setBitmap_arena (s : State) (start bytes frames : Nat) : (s.setBitmap start bytes frames).arena = s.arena := rfl
@[simp] theorem setBitmap_bitmap (s : State) (start bytes frames : Nat) : (s.setBitmap start bytes frames).bitmap = { base := BitVec.ofNat 64 start, bytes := BitVec.ofNat 64 bytes, frameCount := BitVec.ofNat 64 frames } := rfl
@[simp] theorem setBitmap_mem (s : State) (start bytes frames : Nat) : (s.setBitmap start bytes frames).mem = s.mem := rfl
@[simp] theorem setBitmap_inputs (s : State) (start bytes frames : Nat) : (s.setBitmap start bytes frames).inputs = s.inputs := rfl
@[simp] theorem setBitmap_answers (s : State) (start bytes frames : Nat) : (s.setBitmap start bytes frames).answers = s.answers := rfl
@[simp] theorem setBitmap_config (s : State) (start bytes frames : Nat) : (s.setBitmap start bytes frames).config = s.config := rfl

/-! ### accept -/

@[simp] theorem accept_args (r : Request) (s : State) : (accept r s).args = r.args := rfl
@[simp] theorem accept_res (r : Request) (s : State) : (accept r s).res = s.res := rfl
@[simp] theorem accept_status (r : Request) (s : State) : (accept r s).status = s.status := rfl
@[simp] theorem accept_lifecycle (r : Request) (s : State) : (accept r s).lifecycle = s.lifecycle := rfl
@[simp] theorem accept_arenaValid (r : Request) (s : State) : (accept r s).arenaValid = s.arenaValid := rfl
@[simp] theorem accept_halted (r : Request) (s : State) : (accept r s).halted = s.halted := rfl
@[simp] theorem accept_walker (r : Request) (s : State) : (accept r s).walker = s.walker := rfl
@[simp] theorem accept_fault (r : Request) (s : State) : (accept r s).fault = s.fault := rfl
@[simp] theorem accept_ctrl (r : Request) (s : State) : (accept r s).ctrl = s.ctrl := rfl
@[simp] theorem accept_dmapOffset (r : Request) (s : State) : (accept r s).dmapOffset = s.dmapOffset := rfl
@[simp] theorem accept_mmapBase (r : Request) (s : State) : (accept r s).mmapBase = s.mmapBase := rfl
@[simp] theorem accept_mmapCount (r : Request) (s : State) : (accept r s).mmapCount = s.mmapCount := rfl
@[simp] theorem accept_addrWidths (r : Request) (s : State) : (accept r s).addrWidths = s.addrWidths := rfl
@[simp] theorem accept_usableType (r : Request) (s : State) : (accept r s).usableType = s.usableType := rfl
@[simp] theorem accept_arena (r : Request) (s : State) : (accept r s).arena = s.arena := rfl
@[simp] theorem accept_bitmap (r : Request) (s : State) : (accept r s).bitmap = s.bitmap := rfl
@[simp] theorem accept_mem (r : Request) (s : State) : (accept r s).mem = s.mem := rfl
@[simp] theorem accept_inputs (r : Request) (s : State) : (accept r s).inputs = s.inputs := rfl
@[simp] theorem accept_answers (r : Request) (s : State) : (accept r s).answers = r.answers := rfl
@[simp] theorem accept_config (r : Request) (s : State) : (accept r s).config = s.config := rfl

/-! ### writeCsr -/

@[simp] theorem writeCsr_args (s : State) (c : Csr) (v : Word) : (s.writeCsr c v).args = s.args := by cases c <;> rfl
@[simp] theorem writeCsr_res (s : State) (c : Csr) (v : Word) : (s.writeCsr c v).res = s.res := by cases c <;> rfl
@[simp] theorem writeCsr_status (s : State) (c : Csr) (v : Word) : (s.writeCsr c v).status = s.status := by cases c <;> rfl
@[simp] theorem writeCsr_lifecycle (s : State) (c : Csr) (v : Word) : (s.writeCsr c v).lifecycle = s.lifecycle := by cases c <;> rfl
@[simp] theorem writeCsr_arenaValid (s : State) (c : Csr) (v : Word) : (s.writeCsr c v).arenaValid = s.arenaValid := by cases c <;> rfl
@[simp] theorem writeCsr_halted (s : State) (c : Csr) (v : Word) : (s.writeCsr c v).halted = s.halted := by cases c <;> rfl
@[simp] theorem writeCsr_walker (s : State) (c : Csr) (v : Word) : (s.writeCsr c v).walker = s.walker := by cases c <;> rfl
@[simp] theorem writeCsr_fault (s : State) (c : Csr) (v : Word) : (s.writeCsr c v).fault = s.fault := by cases c <;> rfl
@[simp] theorem writeCsr_ctrl (s : State) (c : Csr) (v : Word) : (s.writeCsr c v).ctrl = if c = .ctrl then csrWriteValue .ctrl v else s.ctrl := by cases c <;> rfl
@[simp] theorem writeCsr_dmapOffset (s : State) (c : Csr) (v : Word) : (s.writeCsr c v).dmapOffset = if c = .dmapOffset then csrWriteValue .dmapOffset v else s.dmapOffset := by cases c <;> rfl
@[simp] theorem writeCsr_mmapBase (s : State) (c : Csr) (v : Word) : (s.writeCsr c v).mmapBase = if c = .mmapBase then csrWriteValue .mmapBase v else s.mmapBase := by cases c <;> rfl
@[simp] theorem writeCsr_mmapCount (s : State) (c : Csr) (v : Word) : (s.writeCsr c v).mmapCount = if c = .mmapCount then csrWriteValue .mmapCount v else s.mmapCount := by cases c <;> rfl
@[simp] theorem writeCsr_addrWidths (s : State) (c : Csr) (v : Word) : (s.writeCsr c v).addrWidths = if c = .addrWidths then csrWriteValue .addrWidths v else s.addrWidths := by cases c <;> rfl
@[simp] theorem writeCsr_usableType (s : State) (c : Csr) (v : Word) : (s.writeCsr c v).usableType = if c = .usableType then csrWriteValue .usableType v else s.usableType := by cases c <;> rfl
@[simp] theorem writeCsr_arena (s : State) (c : Csr) (v : Word) : (s.writeCsr c v).arena = s.arena := by cases c <;> rfl
@[simp] theorem writeCsr_bitmap (s : State) (c : Csr) (v : Word) : (s.writeCsr c v).bitmap = s.bitmap := by cases c <;> rfl
@[simp] theorem writeCsr_mem (s : State) (c : Csr) (v : Word) : (s.writeCsr c v).mem = s.mem := by cases c <;> rfl
@[simp] theorem writeCsr_inputs (s : State) (c : Csr) (v : Word) : (s.writeCsr c v).inputs = s.inputs := by cases c <;> rfl
@[simp] theorem writeCsr_answers (s : State) (c : Csr) (v : Word) : (s.writeCsr c v).answers = s.answers := by cases c <;> rfl
@[simp] theorem writeCsr_config (s : State) (c : Csr) (v : Word) : (s.writeCsr c v).config = s.config := by cases c <;> rfl

/-! ### The walk position -/

@[simp] theorem walkerPos_idle : walkerPos .idle = .zero := rfl
@[simp] theorem walkerPos_active (l : Level) (p : WalkPos) : walkerPos (.active l p) = p := rfl
@[simp] theorem walkerPos_done (p : WalkPos) : walkerPos (.done p) = p := rfl

end Sys2Proof.Machine
end

