-- ==== Sys2Proof/Laws/Memory.lean ====
section
/-! SUPPORT. The byte store: what a store changes, and that every store keeps the canonical form. -/

namespace Sys2Proof.Machine

theorem cellsRiseFrom_cons {lo k : Nat} {v : Byte} {rest : List Host.Cell} :
    cellsRiseFrom lo ((k, v) :: rest) = true ↔
      lo ≤ k ∧ k < 2 ^ 64 ∧ v ≠ memoryFill ∧ cellsRiseFrom (k + 1) rest = true := by
  simp only [cellsRiseFrom, Bool.and_eq_true, decide_eq_true_eq, and_assoc]

theorem cellsRiseFrom_mono {lo lo' : Nat} {cells : List Host.Cell} (hle : lo' ≤ lo)
    (h : cellsRiseFrom lo cells = true) : cellsRiseFrom lo' cells = true := by
  cases cells with
  | nil => rfl
  | cons c rest =>
    obtain ⟨k, v⟩ := c
    rw [cellsRiseFrom_cons] at h ⊢
    exact ⟨by omega, h.2⟩

theorem lookupCell_below {lo a : Nat} {cells : List Host.Cell} (h : cellsRiseFrom lo cells = true) (ha : a < lo) :
    lookupCell cells a = memoryFill := by
  induction cells generalizing lo with
  | nil => rfl
  | cons c rest ih =>
    obtain ⟨k, v⟩ := c
    rw [cellsRiseFrom_cons] at h
    rw [lookupCell, if_neg (by omega)]
    exact ih h.2.2.2 (by omega)

theorem storeCell_rises {lo a : Nat} {b : Byte} {cells : List Host.Cell} (h : cellsRiseFrom lo cells = true)
    (hlo : lo ≤ a) (ha : a < 2 ^ 64) : cellsRiseFrom lo (storeCell cells a b) = true := by
  induction cells generalizing lo with
  | nil =>
    unfold storeCell
    split
    · rfl
    · rw [cellsRiseFrom_cons]
      exact ⟨hlo, ha, by assumption, rfl⟩
  | cons c rest ih =>
    obtain ⟨k, v⟩ := c
    rw [cellsRiseFrom_cons] at h
    obtain ⟨h1, h2, h3, h4⟩ := h
    unfold storeCell
    split
    · rw [cellsRiseFrom_cons]
      exact ⟨h1, h2, h3, ih h4 (by omega)⟩
    · split
      · split
        · exact cellsRiseFrom_mono (by omega) h4
        · subst k
          rw [cellsRiseFrom_cons]
          exact ⟨hlo, ha, by assumption, h4⟩
      · split
        · rw [cellsRiseFrom_cons]
          exact ⟨h1, h2, h3, h4⟩
        · rw [cellsRiseFrom_cons, cellsRiseFrom_cons]
          exact ⟨hlo, ha, by assumption, by omega, h2, h3, h4⟩

theorem lookupCell_storeCell {lo a a' : Nat} {b : Byte} {cells : List Host.Cell}
    (h : cellsRiseFrom lo cells = true) :
    lookupCell (storeCell cells a b) a' = if a' = a then b else lookupCell cells a' := by
  induction cells generalizing lo with
  | nil =>
    unfold storeCell
    split
    · simp_all [lookupCell]
    · simp only [lookupCell, eq_comm (a := a)]
  | cons c rest ih =>
    obtain ⟨k, v⟩ := c
    rw [cellsRiseFrom_cons] at h
    obtain ⟨-, -, -, h4⟩ := h
    have gone : ∀ x, x ≤ k → lookupCell rest x = memoryFill := fun x hx => lookupCell_below h4 (by omega)
    rw [storeCell]
    by_cases h1 : k < a
    · rw [if_pos h1, lookupCell, lookupCell, ih h4]
      grind
    · rw [if_neg h1]
      by_cases h2 : k = a
      · rw [if_pos h2]
        split <;> grind [lookupCell]
      · rw [if_neg h2]
        split <;> grind [lookupCell]

/-- A store keeps the canonical form. -/
theorem Memory.write_wf {m : Memory} (h : m.wf = true) (a : Word) (b : Byte) : (m.write a b).wf = true :=
  storeCell_rises h (Nat.zero_le _) a.isLt

/-- What a byte reads as after a store: the stored byte at its address, every other byte as before. -/
theorem Memory.read_write {m : Memory} (h : m.wf = true) (a a' : Word) (b : Byte) :
    (m.write a b).read a' = if a' = a then b else m.read a' := by
  unfold Memory.read Memory.write
  rw [lookupCell_storeCell h]
  simp only [← BitVec.toNat_inj]

theorem Memory.read_write_of_ne {m : Memory} (h : m.wf = true) {a a' : Word} (b : Byte) (hne : a' ≠ a) :
    (m.write a b).read a' = m.read a' := by
  rw [Memory.read_write h, if_neg hne]

theorem Memory.empty_wf : (Memory.mk []).wf = true := rfl

/-- The bytes of a memory in canonical form, by the first address of its cells. -/
theorem lookupCell_ext {lo : Nat} {c c' : List Host.Cell} (h : cellsRiseFrom lo c = true)
    (h' : cellsRiseFrom lo c' = true) (hread : ∀ a, a < 2 ^ 64 → lookupCell c a = lookupCell c' a) : c = c' := by
  induction c generalizing lo c' with
  | nil =>
    cases c' with
    | nil => rfl
    | cons d rest' =>
      obtain ⟨k, v⟩ := d
      rw [cellsRiseFrom_cons] at h'
      have := hread k h'.2.1
      simp only [lookupCell, if_true] at this
      exact absurd this.symm h'.2.2.1
  | cons d rest ih =>
    obtain ⟨k, v⟩ := d
    rw [cellsRiseFrom_cons] at h
    cases c' with
    | nil =>
      have := hread k h.2.1
      simp only [lookupCell, if_true] at this
      exact absurd this h.2.2.1
    | cons d' rest' =>
      obtain ⟨k', v'⟩ := d'
      rw [cellsRiseFrom_cons] at h'
      have hk : k = k' := by
        rcases Nat.lt_trichotomy k k' with hlt | heq | hgt
        · have := hread k h.2.1
          rw [lookupCell, if_pos rfl, lookupCell, if_neg (by omega), lookupCell_below h'.2.2.2 (by omega)] at this
          exact absurd this h.2.2.1
        · exact heq
        · have := hread k' h'.2.1
          rw [lookupCell, if_neg (by omega), lookupCell_below h.2.2.2 (by omega), lookupCell, if_pos rfl] at this
          exact absurd this.symm h'.2.2.1
      subst hk
      have hv : v = v' := by
        have := hread k h.2.1
        simpa [lookupCell] using this
      subst hv
      have hrest : rest = rest' := by
        refine ih h.2.2.2 h'.2.2.2 fun a ha => ?_
        rcases Nat.lt_trichotomy a k with hlt | heq | hgt
        · rw [lookupCell_below h.2.2.2 (by omega), lookupCell_below h'.2.2.2 (by omega)]
        · rw [lookupCell_below h.2.2.2 (by omega), lookupCell_below h'.2.2.2 (by omega)]
        · have := hread a ha
          rwa [lookupCell, if_neg (by omega), lookupCell, if_neg (by omega)] at this
      rw [hrest]

/-- Equal memories are equal data: two memories in canonical form that read alike everywhere are the same. -/
theorem Memory.ext_of_read {m m' : Memory} (h : m.wf = true) (h' : m'.wf = true)
    (hread : ∀ a, m.read a = m'.read a) : m = m' := by
  cases m
  cases m'
  congr 1
  refine lookupCell_ext h h' fun a ha => ?_
  have := hread (BitVec.ofNat 64 a)
  simp only [Memory.read, BitVec.toNat_ofNat] at this
  rwa [Nat.mod_eq_of_lt ha] at this

end Sys2Proof.Machine
end

