-- ==== Sys2Proof/Laws/Port.lean ====
section
/-! SUPPORT. The memory port and the shared operations over it: for each, one lemma that says all it can do. A part of
a command that reads leaves everything but the port's answers (`ReadStep`); one that writes leaves everything but
memory at the addresses it may store to (`MemStep`). -/

namespace Sys2Proof.Machine

/-- The state an access ends in, completed or not. -/
def Access.state {α : Type} : Access α → State
  | .ok _ s => s
  | .fatal _ s => s

/-- Only the port's answers differ. -/
def ReadStep (s s' : State) : Prop := s' = { s with answers := s'.answers }

/-- Only the port's answers and the bytes at addresses in `P` differ, and memory stays canonical. -/
structure MemStep (P : Word → Prop) (s s' : State) : Prop where
  frame : s' = { s with mem := s'.mem, answers := s'.answers }
  wf : s.mem.wf = true → s'.mem.wf = true
  bytes : s.mem.wf = true → ∀ a, ¬ P a → s'.mem.read a = s.mem.read a

theorem ReadStep.refl (s : State) : ReadStep s s := rfl

theorem ReadStep.trans {s s' s'' : State} (h : ReadStep s s') (h' : ReadStep s' s'') : ReadStep s s'' := by
  unfold ReadStep at *
  rw [h', h]

theorem ReadStep.memStep {P : Word → Prop} {s s' : State} (h : ReadStep s s') : MemStep P s s' := by
  unfold ReadStep at h
  refine ⟨?_, ?_, ?_⟩ <;> rw [h]
  · exact id
  · exact fun _ _ _ => rfl

theorem MemStep.refl {P : Word → Prop} (s : State) : MemStep P s s := (ReadStep.refl s).memStep

theorem MemStep.trans {P : Word → Prop} {s s' s'' : State} (h : MemStep P s s') (h' : MemStep P s' s'') :
    MemStep P s s'' := by
  refine ⟨?_, fun hw => h'.wf (h.wf hw), fun hw a ha => ?_⟩
  · rw [h'.frame, h.frame]
  · rw [h'.bytes (h.wf hw) a ha, h.bytes hw a ha]

theorem MemStep.mono {P Q : Word → Prop} (hPQ : ∀ a, P a → Q a) {s s' : State} (h : MemStep P s s') :
    MemStep Q s s' :=
  ⟨h.frame, h.wf, fun hw a ha => h.bytes hw a fun hp => ha (hPQ a hp)⟩

/-- With no answer left and none wanted, using one up changes nothing. -/
theorem dropAnswer_of_quiet {s : State} (h : s.quiet) : s.dropAnswer = s := by
  unfold State.dropAnswer
  rw [h]
  show { s with answers := [] } = s
  rw [← h]

theorem nextAnswer_of_quiet {s : State} (h : s.quiet) : s.nextAnswer = .normal := by
  unfold State.nextAnswer
  rw [h]

theorem dropAnswer_readStep (s : State) : ReadStep s s.dropAnswer := rfl

/-- All a 1-byte read can do. -/
theorem readByte_cases (a : Word) (s : State) :
    readByte a s = .ok (s.mem.read a) s.dropAnswer
      ∨ (∃ v, s.nextAnswer = .raced v ∧ readByte a s = .ok (v.setWidth 8) s.dropAnswer)
      ∨ (∃ left, s.nextAnswer = .error left ∧ readByte a s = .fatal (busError a false) s.dropAnswer) := by
  unfold readByte
  split <;> simp_all

/-- All an 8-byte read can do. -/
theorem readWord_cases (a : Word) (s : State) :
    readWord a s = .ok (s.mem.readWord a) s.dropAnswer
      ∨ (∃ v, s.nextAnswer = .raced v ∧ readWord a s = .ok v s.dropAnswer)
      ∨ (∃ left, s.nextAnswer = .error left ∧ readWord a s = .fatal (busError a false) s.dropAnswer) := by
  unfold readWord
  split <;> simp_all

/-- All a 1-byte write can do. -/
theorem writeByte_cases (a : Word) (b : Byte) (s : State) :
    writeByte a b s = .ok () { s.dropAnswer with mem := s.mem.write a b }
      ∨ (∃ left, s.nextAnswer = .error left
        ∧ writeByte a b s = .fatal (busError a true) { s.dropAnswer with mem := s.mem.write a left }) := by
  unfold writeByte
  split <;> simp_all

theorem readByte_quiet {s : State} (h : s.quiet) (a : Word) : readByte a s = .ok (s.mem.read a) s := by
  unfold readByte
  rw [nextAnswer_of_quiet h, dropAnswer_of_quiet h]

theorem readWord_quiet {s : State} (h : s.quiet) (a : Word) : readWord a s = .ok (s.mem.readWord a) s := by
  unfold readWord
  rw [nextAnswer_of_quiet h, dropAnswer_of_quiet h]

theorem writeByte_quiet {s : State} (h : s.quiet) (a : Word) (b : Byte) :
    writeByte a b s = .ok () { s with mem := s.mem.write a b } := by
  unfold writeByte
  rw [nextAnswer_of_quiet h, dropAnswer_of_quiet h]

theorem readByte_readStep (a : Word) (s : State) : ReadStep s (readByte a s).state := by
  rcases readByte_cases a s with h | ⟨_, _, h⟩ | ⟨_, _, h⟩ <;> rw [h] <;> rfl

theorem readWord_readStep (a : Word) (s : State) : ReadStep s (readWord a s).state := by
  rcases readWord_cases a s with h | ⟨_, _, h⟩ | ⟨_, _, h⟩ <;> rw [h] <;> rfl

theorem writeByte_memStep (a : Word) (b : Byte) (s : State) : MemStep (· = a) s (writeByte a b s).state := by
  rcases writeByte_cases a b s with h | ⟨left, _, h⟩ <;> rw [h]
  · exact ⟨rfl, fun hw => Memory.write_wf hw a b, fun hw x hx => Memory.read_write_of_ne hw b hx⟩
  · exact ⟨rfl, fun hw => Memory.write_wf hw a left, fun hw x hx => Memory.read_write_of_ne hw left hx⟩

/-- A fatal fault of an access is a BUS_ERROR. -/
def Access.BusOnly {α : Type} (x : Access α) : Prop := ∀ f s', x = .fatal f s' → f.code = .busError

theorem readByte_busOnly (a : Word) (s : State) : (readByte a s).BusOnly := by
  intro f s' h
  rcases readByte_cases a s with h' | ⟨_, _, h'⟩ | ⟨_, _, h'⟩ <;> rw [h'] at h <;> cases h
  rfl

theorem readWord_busOnly (a : Word) (s : State) : (readWord a s).BusOnly := by
  intro f s' h
  rcases readWord_cases a s with h' | ⟨_, _, h'⟩ | ⟨_, _, h'⟩ <;> rw [h'] at h <;> cases h
  rfl

theorem writeByte_busOnly (a : Word) (b : Byte) (s : State) : (writeByte a b s).BusOnly := by
  intro f s' h
  rcases writeByte_cases a b s with h' | ⟨_, _, h'⟩ <;> rw [h'] at h <;> cases h
  rfl

/-! ### The memory-map snapshot -/

theorem readEntry_readStep (k : Nat) (s : State) : ReadStep s (readEntry k s).state := by
  unfold readEntry
  have h1 := readWord_readStep (s.entryAddr k) s
  split
  next f s1 e => rw [e] at h1; exact h1
  next b s1 e =>
    rw [e] at h1
    have h2 := readWord_readStep (s.entryAddr k + 8) s1
    split
    next f s2 e => rw [e] at h2; exact h1.trans h2
    next l s2 e =>
      rw [e] at h2
      have h3 := readWord_readStep (s.entryAddr k + 16) s2
      split
      next f s3 e => rw [e] at h3; exact (h1.trans h2).trans h3
      next t s3 e => rw [e] at h3; exact (h1.trans h2).trans h3

theorem readEntry_busOnly (k : Nat) (s : State) : (readEntry k s).BusOnly := by
  intro f s' h
  unfold readEntry at h
  split at h
  next e => cases h; exact readWord_busOnly _ _ _ _ e
  next e =>
    split at h
    next e => cases h; exact readWord_busOnly _ _ _ _ e
    next e =>
      split at h
      next e => cases h; exact readWord_busOnly _ _ _ _ e
      next e => cases h

theorem readEntries_readStep (n k : Nat) (acc : List MapEntry) (s : State) :
    ReadStep s (readEntries n k acc s).state := by
  induction n generalizing k acc s with
  | zero => rfl
  | succ n ih =>
    have h1 := readEntry_readStep k s
    unfold readEntries
    split
    next e => rw [e] at h1; exact h1
    next e => rw [e] at h1; exact h1.trans (ih _ _ _)

theorem readEntries_busOnly (n k : Nat) (acc : List MapEntry) (s : State) : (readEntries n k acc s).BusOnly := by
  intro f s' h
  induction n generalizing k acc s with
  | zero => cases h
  | succ n ih =>
    unfold readEntries at h
    split at h
    next e => cases h; exact readEntry_busOnly _ _ _ _ e
    next e => exact ih _ _ _ h

theorem snapshot_readStep (s : State) : ReadStep s (snapshot s).state := readEntries_readStep _ _ _ _

theorem snapshot_busOnly (s : State) : (snapshot s).BusOnly := readEntries_busOnly _ _ _ _

theorem readEntry_quiet {s : State} (h : s.quiet) (k : Nat) : readEntry k s = .ok (s.mapEntry k) s := by
  unfold readEntry
  simp only [readWord_quiet h]
  rfl

theorem readEntries_quiet {s : State} (h : s.quiet) (n k : Nat) (acc : List MapEntry) :
    readEntries n k acc s = .ok (acc.reverse ++ (List.range' k n).map s.mapEntry) s := by
  induction n generalizing k acc with
  | zero => simp [readEntries]
  | succ n ih =>
    rw [readEntries, readEntry_quiet h]
    simp only [ih, List.range'_succ, List.reverse_cons, List.map_cons, List.append_assoc, List.singleton_append]

/-- The snapshot of a table no other agent disturbs: the entries as memory holds them. -/
theorem snapshot_quiet {s : State} (h : s.quiet) :
    snapshot s = .ok ((List.range s.mmapCount.toNat).map s.mapEntry) s := by
  unfold snapshot
  rw [readEntries_quiet h, List.range_eq_range']
  rfl

/-! ### The gate -/

/-- All the gate can answer. -/
theorem gate_cases (i : Instr) (s : State) :
    (gate i s = some .halted ∧ s.halted = true ∧ runsHalted i = false)
      ∨ (gate i s = none ∧ (s.halted = false ∨ runsHalted i = true) ∧ permits i s.lifecycle s.arenaValid = true)
      ∨ (gate i s = some .badState ∧ (s.halted = false ∨ runsHalted i = true)
          ∧ permits i s.lifecycle s.arenaValid = false) := by
  unfold gate
  cases s.halted <;> cases runsHalted i <;> cases permits i s.lifecycle s.arenaValid <;> simp

theorem gate_none {i : Instr} {s : State} (h : s.halted = false) (hp : permits i s.lifecycle s.arenaValid = true) :
    gate i s = none := by
  simp [gate, h, hp]

/-! ### The arena take -/

/-- All `take` can answer (41_bootstrap_arena.md R163). -/
theorem take_cases (size align : Nat) (s : State) :
    (isPow2 align = false ∧ take size align s = .error .invalidAlignment)
      ∨ (isPow2 align = true ∧ s.arena.limit.toNat < alignUp s.arena.cursor.toNat align
          ∧ take size align s = .error .alignmentNotPossible)
      ∨ (isPow2 align = true ∧ alignUp s.arena.cursor.toNat align ≤ s.arena.limit.toNat
          ∧ s.arena.limit.toNat < alignUp s.arena.cursor.toNat align + size
          ∧ take size align s = .error .outOfSpace)
      ∨ (isPow2 align = true ∧ alignUp s.arena.cursor.toNat align + size ≤ s.arena.limit.toNat
          ∧ take size align s = .ok (alignUp s.arena.cursor.toNat align,
              { s with arena :=
                { s.arena with cursor := BitVec.ofNat 64 (alignUp s.arena.cursor.toNat align + size) } })) := by
  have hl := s.arena.limit.isLt
  generalize hst : alignUp s.arena.cursor.toNat align = start
  unfold take
  simp only [hst]
  by_cases hp : isPow2 align = true
  · by_cases h1 : s.arena.limit.toNat < start
    · exact .inr (.inl ⟨hp, h1, by simp [hp, h1]⟩)
    · have h1' : (decide (2 ^ 64 - 1 < start) || decide (s.arena.limit.toNat < start)) = false := by
        simp only [Bool.or_eq_false_iff, decide_eq_false_iff_not]
        omega
      by_cases h2 : s.arena.limit.toNat < start + size
      · refine .inr (.inr (.inl ⟨hp, by omega, h2, ?_⟩))
        simp only [hp, h1', h2, Bool.not_true, Bool.false_eq_true, if_false, if_true]
      · refine .inr (.inr (.inr ⟨hp, by omega, ?_⟩))
        simp only [hp, h1', h2, Bool.not_true, Bool.false_eq_true, if_false]
  · exact .inl ⟨by simpa using hp, by simp [hp]⟩

end Sys2Proof.Machine
end

