-- ==== Sys2Proof/Laws/Bitmap.lean ====
section
/-! SUPPORT. The loops over the bitmap: what each leaves unchanged, that its only fatal fault is BUS_ERROR, and what it
computes when the port answers normally. -/

namespace Sys2Proof.Machine

/-! ### What the loops may touch -/

/-- The addresses of bitmap bytes j, .., j + n - 1. -/
def State.bytesBetween (s : State) (j n : Nat) (a : Word) : Prop := ∃ k, j ≤ k ∧ k < j + n ∧ a = s.bitmapAddr k

/-- The addresses of the bytes that hold the bits of frames f, .., f + n - 1. -/
def State.frameBytesBetween (s : State) (f n : Nat) (a : Word) : Prop :=
  ∃ g, f ≤ g ∧ g < f + n ∧ a = s.frameByteAddr g

theorem MemStep.bitmap_eq {P : Word → Prop} {s s' : State} (h : MemStep P s s') : s'.bitmap = s.bitmap := by
  rw [h.frame]

theorem MemStep.bitmapAddr_eq {P : Word → Prop} {s s' : State} (h : MemStep P s s') (k : Nat) :
    s'.bitmapAddr k = s.bitmapAddr k := by
  rw [h.frame]
  rfl

theorem MemStep.frameByteAddr_eq {P : Word → Prop} {s s' : State} (h : MemStep P s s') (f : Nat) :
    s'.frameByteAddr f = s.frameByteAddr f := h.bitmapAddr_eq _

theorem ReadStep.memStepNone {s s' : State} (h : ReadStep s s') : MemStep (fun _ => False) s s' := h.memStep

/-! ### BITMAP_BUILD -/

theorem buildBytes_memStep (p : BuildPlan) (n j free : Nat) (s : State) :
    MemStep (s.bytesBetween j n) s (buildBytes p n j free s).state := by
  induction n generalizing j free s with
  | zero => exact .refl s
  | succ n ih =>
    have h1 := (writeByte_memStep (s.bitmapAddr j) (p.byte j) s).mono
      (Q := s.bytesBetween j (n + 1)) fun a ha => ⟨j, by omega, by omega, ha⟩
    unfold buildBytes
    split
    next e => rw [e] at h1; exact h1
    next s1 e =>
      rw [e] at h1
      refine h1.trans ((ih (j + 1) _ s1).mono ?_)
      rintro a ⟨k, hk1, hk2, rfl⟩
      exact ⟨k, by omega, by omega, h1.bitmapAddr_eq k⟩

theorem buildBytes_busOnly (p : BuildPlan) (n j free : Nat) (s : State) : (buildBytes p n j free s).BusOnly := by
  intro f s' h
  induction n generalizing j free s with
  | zero => cases h
  | succ n ih =>
    unfold buildBytes at h
    split at h
    next e => cases h; exact writeByte_busOnly _ _ _ _ _ e
    next e => exact ih _ _ _ h

/-! ### FRAME_ALLOC -/

theorem scanFree_memStep (n j : Nat) (s : State) : MemStep (s.bytesBetween j n) s (scanFree n j s).state := by
  induction n generalizing j s with
  | zero => exact .refl s
  | succ n ih =>
    have h1 := (readByte_readStep (s.bitmapAddr j) s).memStep (P := s.bytesBetween j (n + 1))
    have later : ∀ s1, MemStep (s.bytesBetween j (n + 1)) s s1 →
        MemStep (s.bytesBetween j (n + 1)) s (scanFree n (j + 1) s1).state := by
      intro s1 h
      refine h.trans ((ih (j + 1) s1).mono ?_)
      rintro a ⟨k, hk1, hk2, rfl⟩
      exact ⟨k, by omega, by omega, h.bitmapAddr_eq k⟩
    unfold scanFree
    split
    next e => rw [e] at h1; exact h1
    next b s1 e =>
      rw [e] at h1
      split
      · exact later s1 h1
      · split
        · exact later s1 h1
        next k _ =>
          have h2 := (writeByte_memStep (s.bitmapAddr j) (setBit b k) s1).mono
            (Q := s.bytesBetween j (n + 1)) fun a ha => ⟨j, by omega, by omega, ha⟩
          split
          next e => rw [e] at h2; exact h1.trans h2
          next e => rw [e] at h2; exact h1.trans h2

theorem scanFree_busOnly (n j : Nat) (s : State) : (scanFree n j s).BusOnly := by
  intro f s' h
  induction n generalizing j s with
  | zero => cases h
  | succ n ih =>
    unfold scanFree at h
    split at h
    next e => cases h; exact readByte_busOnly _ _ _ _ e
    next e =>
      split at h
      · exact ih _ _ h
      · split at h
        · exact ih _ _ h
        · split at h
          next e => cases h; exact writeByte_busOnly _ _ _ _ _ e
          next e => cases h

/-- A scan that finds no free frame has written nothing. -/
theorem scanFree_none_readStep {n j : Nat} {s s' : State} (h : scanFree n j s = .ok none s') : ReadStep s s' := by
  induction n generalizing j s with
  | zero => cases h; rfl
  | succ n ih =>
    have h1 := readByte_readStep (s.bitmapAddr j) s
    unfold scanFree at h
    split at h
    next e => cases h
    next e =>
      rw [e] at h1
      split at h
      · exact h1.trans (ih h)
      · split at h
        · exact h1.trans (ih h)
        · split at h <;> cases h

/-! ### FRAME_FREE -/

theorem freeFrames_memStep (n f cleared : Nat) (s : State) :
    MemStep (s.frameBytesBetween f n) s (freeFrames n f cleared s).state := by
  induction n generalizing f cleared s with
  | zero => exact .refl s
  | succ n ih =>
    have h1 := (readByte_readStep (s.frameByteAddr f) s).memStep (P := s.frameBytesBetween f (n + 1))
    have later : ∀ c s1, MemStep (s.frameBytesBetween f (n + 1)) s s1 →
        MemStep (s.frameBytesBetween f (n + 1)) s (freeFrames n (f + 1) c s1).state := by
      intro c s1 h
      refine h.trans ((ih (f + 1) c s1).mono ?_)
      rintro a ⟨g, hg1, hg2, rfl⟩
      exact ⟨g, by omega, by omega, h.frameByteAddr_eq g⟩
    unfold freeFrames
    split
    next e => rw [e] at h1; exact h1
    next b s1 e =>
      rw [e] at h1
      split
      · have h2 := (writeByte_memStep (s.frameByteAddr f) (clearBit b (f % 8)) s1).mono
          (Q := s.frameBytesBetween f (n + 1)) fun a ha => ⟨f, by omega, by omega, ha⟩
        split
        next e => rw [e] at h2; exact h1.trans h2
        next e => rw [e] at h2; exact later _ _ (h1.trans h2)
      · exact later _ _ h1

theorem freeFrames_busOnly (n f cleared : Nat) (s : State) : (freeFrames n f cleared s).BusOnly := by
  intro e s' h
  induction n generalizing f cleared s with
  | zero => cases h
  | succ n ih =>
    unfold freeFrames at h
    split at h
    next e => cases h; exact readByte_busOnly _ _ _ _ e
    next e =>
      split at h
      · split at h
        next e => cases h; exact writeByte_busOnly _ _ _ _ _ e
        next e => exact ih _ _ _ h
      · exact ih _ _ _ h

/-! ### FREE_COUNT -/

theorem countFree_readStep (n j free : Nat) (s : State) : ReadStep s (countFree n j free s).state := by
  induction n generalizing j free s with
  | zero => rfl
  | succ n ih =>
    have h1 := readByte_readStep (s.bitmapAddr j) s
    unfold countFree
    split
    next e => rw [e] at h1; exact h1
    next e => rw [e] at h1; exact h1.trans (ih _ _ _)

theorem countFree_busOnly (n j free : Nat) (s : State) : (countFree n j free s).BusOnly := by
  intro e s' h
  induction n generalizing j free s with
  | zero => cases h
  | succ n ih =>
    unfold countFree at h
    split at h
    next e => cases h; exact readByte_busOnly _ _ _ _ e
    next e => exact ih _ _ _ h

/-! ### Bits of a byte -/

theorem getLsbD_setBit (b : Byte) {k : Nat} (hk : k < 8) (i : Nat) :
    (setBit b k).getLsbD i = (b.getLsbD i || decide (i = k)) := by
  simp only [setBit, BitVec.getLsbD_or, BitVec.getLsbD_shiftLeft, BitVec.getLsbD_one]
  by_cases h : i = k
  · subst h
    simp [hk]
  · by_cases h2 : i < 8
    · by_cases h3 : i < k
      · simp [h, h3]
      · have : i - k ≠ 0 := by omega
        simp [h, this]
    · simp [h, h2]

theorem getLsbD_clearBit (b : Byte) {k : Nat} (hk : k < 8) (i : Nat) :
    (clearBit b k).getLsbD i = (b.getLsbD i && decide (i ≠ k)) := by
  have h : (1#8 <<< k).getLsbD i = decide (i = k) := by
    have := getLsbD_setBit 0 hk i
    simpa [setBit] using this
  simp only [clearBit, BitVec.getLsbD_and, BitVec.getLsbD_not, h]
  by_cases h2 : i < 8
  · by_cases h3 : i = k <;> simp [h2, h3]
  · have : b.getLsbD i = false := BitVec.getLsbD_of_ge _ _ (by omega)
    simp [this]

/-- Different bitmap bytes lie at different port addresses. -/
theorem bitmapAddr_inj {s : State} {j k : Nat} (hj : j < 2 ^ 64) (hk : k < 2 ^ 64)
    (h : s.bitmapAddr j = s.bitmapAddr k) : j = k := by
  unfold State.bitmapAddr State.phys at h
  have h2 : BitVec.ofNat 64 j = BitVec.ofNat 64 k := by
    have := (BitVec.add_left_inj _).mp h
    exact (BitVec.add_right_inj _).mp this
  have h3 := congrArg BitVec.toNat h2
  simpa only [BitVec.toNat_ofNat, Nat.mod_eq_of_lt hj, Nat.mod_eq_of_lt hk] using h3

end Sys2Proof.Machine
end

