-- ==== Sys2Proof/Laws/Walk.lean ====
section
/-! SUPPORT. The page walker: what one iteration of ADVANCE can do, that the walk ends within the bound of
43_page_walker.md R217, what a walk leaves unchanged, that its position stays on the path from the root, and the virtual
address it reports. -/

namespace Sys2Proof.Machine

/-! ### The bound of R217 -/

/-- Iterations one whole table of each level takes at most. -/
def tableCost : Level → Nat
  | .l1 => 513
  | .l2 => 512 * 514 + 1
  | .l3 => 512 * (512 * 514 + 2) + 1
  | .l4 => 512 * (512 * (512 * 514 + 2) + 2) + 1

/-- Iterations the rest of a table takes at most, from an index on. -/
def restCost (l : Level) (i : Fin 513) : Nat :=
  match l with
  | .l1 => (512 - i.val) + 1
  | .l2 => (512 - i.val) * (1 + tableCost .l1) + 1
  | .l3 => (512 - i.val) * (1 + tableCost .l2) + 1
  | .l4 => (512 - i.val) * (1 + tableCost .l3) + 1

/-- Iterations the walk takes at most from a position on. -/
def walkCost (l : Level) (p : WalkPos) : Nat :=
  match l with
  | .l4 => restCost .l4 p.idx4
  | .l3 => restCost .l3 p.idx3 + restCost .l4 (idxSucc p.idx4)
  | .l2 => restCost .l2 p.idx2 + restCost .l3 (idxSucc p.idx3) + restCost .l4 (idxSucc p.idx4)
  | .l1 => restCost .l1 p.idx1 + restCost .l2 (idxSucc p.idx2) + restCost .l3 (idxSucc p.idx3)
      + restCost .l4 (idxSucc p.idx4)

theorem idxSucc_val {i : Fin 513} (h : i.val ≠ 512) : (idxSucc i).val = i.val + 1 := by
  have := i.isLt
  unfold idxSucc
  rw [dif_pos (by omega)]

theorem restCost_pos (l : Level) (i : Fin 513) : 0 < restCost l i := by
  cases l <;> simp [restCost]

theorem restCost_end (l : Level) {i : Fin 513} (h : i.val = 512) : restCost l i = 1 := by
  cases l <;> simp [restCost, h]

theorem restCost_zero (l : Level) : restCost l 0 = tableCost l := by
  cases l <;> rfl

/-- Stepping past an entry pays for a whole table below it, and one iteration more. -/
theorem restCost_succ_l1 {i : Fin 513} (h : i.val ≠ 512) : restCost .l1 (idxSucc i) + 1 = restCost .l1 i := by
  have := i.isLt
  simp only [restCost, idxSucc_val h]
  omega

theorem restCost_succ_l2 {i : Fin 513} (h : i.val ≠ 512) :
    restCost .l2 (idxSucc i) + 1 + tableCost .l1 = restCost .l2 i := by
  have := i.isLt
  simp only [restCost, idxSucc_val h, tableCost]
  omega

theorem restCost_succ_l3 {i : Fin 513} (h : i.val ≠ 512) :
    restCost .l3 (idxSucc i) + 1 + tableCost .l2 = restCost .l3 i := by
  have := i.isLt
  simp only [restCost, idxSucc_val h, tableCost]
  omega

theorem restCost_succ_l4 {i : Fin 513} (h : i.val ≠ 512) :
    restCost .l4 (idxSucc i) + 1 + tableCost .l3 = restCost .l4 i := by
  have := i.isLt
  simp only [restCost, idxSucc_val h, tableCost]
  omega

/-- Stepping past the entry at the position costs less. -/
theorem walkCost_bump {l : Level} {p : WalkPos} (h : (p.idx l).val ≠ 512) : walkCost l (p.bump l) < walkCost l p := by
  cases l <;> simp only [walkCost, WalkPos.bump, WalkPos.idx] at *
  · have := restCost_succ_l1 h; omega
  · have := restCost_succ_l2 h; omega
  · have := restCost_succ_l3 h; omega
  · have := restCost_succ_l4 h; omega

theorem walkCost_pop1 {p : WalkPos} (h : p.idx1.val = 512) : walkCost .l2 (p.bump .l2) < walkCost .l1 p := by
  simp only [walkCost, WalkPos.bump, restCost_end .l1 h]
  omega

theorem walkCost_pop2 {p : WalkPos} (h : p.idx2.val = 512) : walkCost .l3 (p.bump .l3) < walkCost .l2 p := by
  simp only [walkCost, WalkPos.bump, restCost_end .l2 h]
  omega

theorem walkCost_pop3 {p : WalkPos} (h : p.idx3.val = 512) : walkCost .l4 (p.bump .l4) < walkCost .l3 p := by
  simp only [walkCost, WalkPos.bump, restCost_end .l3 h]
  omega

theorem walkCost_down4 {p : WalkPos} (a : Word) (h : p.idx4.val ≠ 512) :
    walkCost .l3 { p with tbl3 := a, idx3 := 0 } < walkCost .l4 p := by
  have := restCost_succ_l4 h
  simp only [walkCost, restCost_zero]
  omega

theorem walkCost_down3 {p : WalkPos} (a : Word) (h : p.idx3.val ≠ 512) :
    walkCost .l2 { p with tbl2 := a, idx2 := 0 } < walkCost .l3 p := by
  have := restCost_succ_l3 h
  simp only [walkCost, restCost_zero]
  omega

theorem walkCost_down2 {p : WalkPos} (a : Word) (h : p.idx2.val ≠ 512) :
    walkCost .l1 { p with tbl1 := a, idx1 := 0 } < walkCost .l2 p := by
  have := restCost_succ_l2 h
  simp only [walkCost, restCost_zero]
  omega

theorem walkCost_lt_fuel (l : Level) (p : WalkPos) : walkCost l p < walkFuel := by
  have h (l : Level) (i : Fin 513) : restCost l i ≤ tableCost l := by
    have := i.isLt
    cases l <;> simp only [restCost, tableCost] <;> omega
  have h1 := h .l1 p.idx1
  have h2 := h .l2 p.idx2
  have h3 := h .l3 p.idx3
  have h4 := h .l4 p.idx4
  have h2' := h .l2 (idxSucc p.idx2)
  have h3' := h .l3 (idxSucc p.idx3)
  have h4' := h .l4 (idxSucc p.idx4)
  simp only [tableCost] at *
  unfold walkFuel
  cases l <;> simp only [walkCost] <;> omega

/-! ### One iteration -/

/-- Everything but the port's answers and the walker is unchanged. -/
def WalkStep (s s' : State) : Prop := s' = { s with answers := s'.answers, walker := s'.walker }

theorem ReadStep.walkStep {s s' : State} (h : ReadStep s s') : WalkStep s s' := by
  unfold ReadStep at h
  unfold WalkStep
  rw [h]

theorem WalkStep.refl (s : State) : WalkStep s s := rfl

theorem WalkStep.trans {s s' s'' : State} (h : WalkStep s s') (h' : WalkStep s' s'') : WalkStep s s'' := by
  unfold WalkStep at *
  rw [h', h]

theorem WalkStep.setWalker {s s' : State} (h : WalkStep s s') (w : Walker) : WalkStep s { s' with walker := w } := by
  unfold WalkStep at *
  rw [h]

/-- The state an iteration ends in. -/
def WalkIter.state : WalkIter → State
  | .again _ _ s => s
  | .record _ _ _ s => s
  | .exhausted s => s
  | .fatal _ s => s

/-- The position an iteration goes on from, if it does. -/
def WalkIter.next? : WalkIter → Option (Level × WalkPos)
  | .again l p _ => some (l, p)
  | .record _ l p _ => some (l, p)
  | .exhausted _ => none
  | .fatal _ _ => none

theorem followEntry_walkStep (l : Level) (p : WalkPos) (e : Word) (s : State) :
    WalkStep s (followEntry l p e s).state := by
  cases l <;> simp only [followEntry, yieldRecord] <;> (try split) <;> rfl

theorem visitEntry_walkStep (l : Level) (p : WalkPos) (e : Word) (s : State) :
    WalkStep s (visitEntry l p e s).state := by
  unfold visitEntry
  split
  · rfl
  · split
    · rfl
    · exact followEntry_walkStep l p e s

theorem advanceOnce_walkStep (l : Level) (p : WalkPos) (s : State) : WalkStep s (advanceOnce l p s).state := by
  unfold advanceOnce
  split
  · cases l <;> rfl
  · have h := readWord_readStep (s.phys (p.entryAddr l)) s
    split
    next e => rw [e] at h; exact h.walkStep.setWalker _
    next e => rw [e] at h; exact h.walkStep.trans (visitEntry_walkStep _ _ _ _)

/-- An iteration that goes on costs less from there (R217). -/
theorem advanceOnce_cost {l l' : Level} {p p' : WalkPos} {s : State}
    (h : (advanceOnce l p s).next? = some (l', p')) : walkCost l' p' < walkCost l p := by
  unfold advanceOnce at h
  split at h
  next hend =>
    cases l <;> simp only [popTable, WalkIter.next?, Option.some.injEq, Prod.mk.injEq] at h
    · obtain ⟨rfl, rfl⟩ := h; exact walkCost_pop1 hend
    · obtain ⟨rfl, rfl⟩ := h; exact walkCost_pop2 hend
    · obtain ⟨rfl, rfl⟩ := h; exact walkCost_pop3 hend
    · cases h
  next hin =>
    split at h
    · cases h
    · unfold visitEntry at h
      split at h
      · simp only [WalkIter.next?, Option.some.injEq, Prod.mk.injEq] at h
        obtain ⟨rfl, rfl⟩ := h
        exact walkCost_bump hin
      · split at h
        · cases h
        · cases l <;> simp only [followEntry, yieldRecord] at h
          · simp only [WalkIter.next?, Option.some.injEq, Prod.mk.injEq] at h
            obtain ⟨rfl, rfl⟩ := h
            exact walkCost_bump hin
          · split at h <;> simp only [WalkIter.next?, Option.some.injEq, Prod.mk.injEq] at h
            · obtain ⟨rfl, rfl⟩ := h; exact walkCost_bump hin
            · obtain ⟨rfl, rfl⟩ := h; exact walkCost_down2 _ hin
          · split at h
            · cases h
            · simp only [WalkIter.next?, Option.some.injEq, Prod.mk.injEq] at h
              obtain ⟨rfl, rfl⟩ := h
              exact walkCost_down3 _ hin
          · simp only [WalkIter.next?, Option.some.injEq, Prod.mk.injEq] at h
            obtain ⟨rfl, rfl⟩ := h
            exact walkCost_down4 _ hin

/-- A fatal fault of the walk is a BUS_ERROR, a RESERVED_BIT or an UNSUPPORTED_PAGE_SIZE (60_exceptions.md R306). -/
def WalkFault (c : FaultCode) : Prop := c = .busError ∨ c = .reservedBit ∨ c = .unsupportedPageSize

theorem advanceOnce_fault {l : Level} {p : WalkPos} {s s' : State} {f : FatalFault}
    (h : advanceOnce l p s = .fatal f s') : WalkFault f.code ∧ s'.walker = .active l p := by
  unfold advanceOnce at h
  split at h
  · cases l <;> cases h
  · split at h
    next e => cases h; exact ⟨.inl (readWord_busOnly _ _ _ _ e), rfl⟩
    next e =>
      unfold visitEntry at h
      split at h
      · cases h
      · split at h
        · cases h
          exact ⟨.inr (.inl rfl), rfl⟩
        · cases l <;> simp only [followEntry, yieldRecord] at h
          · cases h
          · split at h <;> cases h
          · split at h
            · cases h
              exact ⟨.inr (.inr rfl), rfl⟩
            · cases h
          · cases h

/-- An iteration that yields a record leaves the walker just past the entry. -/
theorem advanceOnce_record {l l' : Level} {p p' : WalkPos} {s s' : State} {r : WalkRecord}
    (h : advanceOnce l p s = .record r l' p' s') : s'.walker = .active l' p' := by
  unfold advanceOnce at h
  split at h
  · cases l <;> cases h
  · split at h
    · cases h
    · unfold visitEntry at h
      split at h
      · cases h
      · split at h
        · cases h
        · cases l <;> simp only [followEntry, yieldRecord] at h
          · cases h; rfl
          · split at h <;> cases h
            rfl
          · split at h <;> cases h
          · cases h

/-- An iteration that ends the walk leaves the walker DONE. -/
theorem advanceOnce_exhausted {l : Level} {p : WalkPos} {s s' : State} (h : advanceOnce l p s = .exhausted s') :
    l = .l4 ∧ p.idx4.val = 512 ∧ s' = { s with walker := .done p } := by
  unfold advanceOnce at h
  split at h
  next hend =>
    cases l <;> cases h
    exact ⟨rfl, hend, rfl⟩
  · split at h
    · cases h
    · unfold visitEntry at h
      split at h
      · cases h
      · split at h
        · cases h
        · cases l <;> simp only [followEntry, yieldRecord] at h
          · cases h
          · split at h <;> cases h
          · split at h <;> cases h
          · cases h

/-! ### ADVANCE -/

/-- The state ADVANCE ends in, if it ends. -/
def Advance.state? : Advance → Option State
  | .record _ _ _ s => some s
  | .exhausted s => some s
  | .fatal _ s => some s
  | .unfinished => none

/-- ADVANCE always ends within the bound (R217). -/
theorem advance_finishes {n : Nat} {l : Level} {p : WalkPos} (s : State) (h : walkCost l p < n) :
    advance n l p s ≠ .unfinished := by
  induction n generalizing l p s with
  | zero => omega
  | succ n ih =>
    unfold advance
    have hc : ∀ l' p', (advanceOnce l p s).next? = some (l', p') → walkCost l' p' < walkCost l p :=
      fun _ _ h => advanceOnce_cost h
    split <;> rename_i e
    · rw [e] at hc
      have := hc _ _ rfl
      exact ih _ (by omega)
    all_goals nofun

/-- A record leaves a position that costs less (R217). -/
theorem advance_cost {n : Nat} {l l' : Level} {p p' : WalkPos} {s s' : State} {r : WalkRecord}
    (h : advance n l p s = .record r l' p' s') : walkCost l' p' < walkCost l p := by
  induction n generalizing l p s with
  | zero => cases h
  | succ n ih =>
    have hc : ∀ l' p', (advanceOnce l p s).next? = some (l', p') → walkCost l' p' < walkCost l p :=
      fun _ _ h => advanceOnce_cost h
    unfold advance at h
    split at h <;> rename_i e <;> rw [e] at hc
    · have := hc _ _ rfl
      have := ih h
      omega
    · cases h
      exact hc _ _ rfl
    all_goals cases h

theorem advance_walkStep {n : Nat} {l : Level} {p : WalkPos} {s s' : State}
    (h : (advance n l p s).state? = some s') : WalkStep s s' := by
  induction n generalizing l p s with
  | zero => cases h
  | succ n ih =>
    have hs := advanceOnce_walkStep l p s
    unfold advance at h
    split at h <;> rename_i e <;> rw [e] at hs
    · exact hs.trans (ih h)
    all_goals cases h; exact hs

theorem advance_fault {n : Nat} {l : Level} {p : WalkPos} {s s' : State} {f : FatalFault}
    (h : advance n l p s = .fatal f s') : WalkFault f.code := by
  induction n generalizing l p s with
  | zero => cases h
  | succ n ih =>
    unfold advance at h
    split at h <;> rename_i e
    · exact ih h
    · cases h
    · cases h
    · cases h
      exact (advanceOnce_fault e).1

theorem advance_record {n : Nat} {l l' : Level} {p p' : WalkPos} {s s' : State} {r : WalkRecord}
    (h : advance n l p s = .record r l' p' s') : s'.walker = .active l' p' := by
  induction n generalizing l p s with
  | zero => cases h
  | succ n ih =>
    unfold advance at h
    split at h <;> rename_i e
    · exact ih h
    · cases h
      exact advanceOnce_record e
    all_goals cases h

/-! ### WALK_MARK and WALK_CHECK -/

/-- Everything but the port's answers, the walker and the bytes at addresses in `P` is unchanged. -/
structure WalkMemStep (P : Word → Prop) (s s' : State) : Prop where
  frame : s' = { s with mem := s'.mem, answers := s'.answers, walker := s'.walker }
  wf : s.mem.wf = true → s'.mem.wf = true
  bytes : s.mem.wf = true → ∀ a, ¬ P a → s'.mem.read a = s.mem.read a

theorem WalkStep.walkMemStep {P : Word → Prop} {s s' : State} (h : WalkStep s s') : WalkMemStep P s s' := by
  unfold WalkStep at h
  refine ⟨?_, ?_, ?_⟩ <;> rw [h]
  · exact id
  · exact fun _ _ _ => rfl

theorem MemStep.walkMemStep {P : Word → Prop} {s s' : State} (h : MemStep P s s') : WalkMemStep P s s' := by
  refine ⟨?_, h.wf, h.bytes⟩
  rw [h.frame]

theorem WalkMemStep.trans {P : Word → Prop} {s s' s'' : State} (h : WalkMemStep P s s') (h' : WalkMemStep P s' s'') :
    WalkMemStep P s s'' := by
  refine ⟨?_, fun hw => h'.wf (h.wf hw), fun hw a ha => ?_⟩
  · rw [h'.frame, h.frame]
  · rw [h'.bytes (h.wf hw) a ha, h.bytes hw a ha]

theorem WalkMemStep.mono {P Q : Word → Prop} (hPQ : ∀ a, P a → Q a) {s s' : State} (h : WalkMemStep P s s') :
    WalkMemStep Q s s' :=
  ⟨h.frame, h.wf, fun hw a ha => h.bytes hw a fun hp => ha (hPQ a hp)⟩

theorem WalkMemStep.trackedFrame_eq {P : Word → Prop} {s s' : State} (h : WalkMemStep P s s') :
    s'.bitmap = s.bitmap ∧ ∀ f, s'.frameByteAddr f = s.frameByteAddr f := by
  rw [h.frame]
  exact ⟨rfl, fun _ => rfl⟩

/-- The addresses of the bytes that hold the bits of the tracked frames. -/
def State.trackedByte (s : State) (a : Word) : Prop := ∃ f, f < s.bitmap.frameCount.toNat ∧ a = s.frameByteAddr f

theorem markFrame_memStep (f : Nat) (t : Tally) (s : State) : MemStep s.trackedByte s (markFrame f t s).state := by
  unfold markFrame
  split
  · exact .refl s
  next hf =>
    have h1 := (readByte_readStep (s.frameByteAddr f) s).memStep (P := s.trackedByte)
    split
    next e => rw [e] at h1; exact h1
    next b s1 e =>
      rw [e] at h1
      split
      · exact h1
      · have h2 := (writeByte_memStep (s.frameByteAddr f) (setBit b (f % 8)) s1).mono
          (Q := s.trackedByte) fun a ha => ⟨f, by omega, ha⟩
        split
        next e => rw [e] at h2; exact h1.trans h2
        next e => rw [e] at h2; exact h1.trans h2

theorem markFrame_busOnly (f : Nat) (t : Tally) (s : State) : (markFrame f t s).BusOnly := by
  intro e s' h
  unfold markFrame at h
  split at h
  · cases h
  · split at h
    next e => cases h; exact readByte_busOnly _ _ _ _ e
    next e =>
      split at h
      · cases h
      · split at h
        next e => cases h; exact writeByte_busOnly _ _ _ _ _ e
        next e => cases h

theorem checkFrame_readStep (f : Nat) (t : Tally) (s : State) : ReadStep s (checkFrame f t s).state := by
  unfold checkFrame
  split
  · exact .refl s
  · have h1 := readByte_readStep (s.frameByteAddr f) s
    split
    next e => rw [e] at h1; exact h1
    next e => rw [e] at h1; exact h1

theorem checkFrame_busOnly (f : Nat) (t : Tally) (s : State) : (checkFrame f t s).BusOnly := by
  intro e s' h
  unfold checkFrame at h
  split at h
  · cases h
  · split at h
    next e => cases h; exact readByte_busOnly _ _ _ _ e
    next e => cases h

/-- What a visit of a frame may touch, for a walk that stores to `P` only. -/
def VisitTouches (P : State → Word → Prop) (visit : Nat → Tally → State → Access Tally) : Prop :=
  ∀ f t s, MemStep (P s) s (visit f t s).state

/-- `P` depends on nothing a walk changes. -/
def WalkStable (P : State → Word → Prop) : Prop := ∀ Q s s', WalkMemStep Q s s' → ∀ a, P s' a → P s a

theorem trackedByte_stable : WalkStable State.trackedByte := by
  rintro Q s s' h a ⟨f, hf, rfl⟩
  obtain ⟨hb, ha⟩ := h.trackedFrame_eq
  exact ⟨f, hb ▸ hf, ha f⟩

theorem nowhere_stable : WalkStable (fun _ _ => False) := fun _ _ _ _ _ h => h

theorem visitFrames_memStep {P : State → Word → Prop} {visit : Nat → Tally → State → Access Tally}
    (hv : VisitTouches P visit) (hP : WalkStable P) (n f : Nat) (t : Tally) (s : State) :
    MemStep (P s) s (visitFrames visit n f t s).state := by
  induction n generalizing f t s with
  | zero => exact .refl s
  | succ n ih =>
    have h1 := hv f t s
    unfold visitFrames
    split
    next e => rw [e] at h1; exact h1
    next e => rw [e] at h1; exact h1.trans ((ih _ _ _).mono (hP _ _ _ h1.walkMemStep))

theorem visitFrames_busOnly {visit : Nat → Tally → State → Access Tally} (hv : ∀ f t s, (visit f t s).BusOnly)
    (n f : Nat) (t : Tally) (s : State) : (visitFrames visit n f t s).BusOnly := by
  intro e s' h
  induction n generalizing f t s with
  | zero => cases h
  | succ n ih =>
    unfold visitFrames at h
    split at h
    next e => cases h; exact hv _ _ _ _ _ e
    next e => exact ih _ _ _ h

/-- The state a whole walk ends in, if it ends. -/
def WalkRun.state? : WalkRun → Option State
  | .done _ s => some s
  | .fatal _ s => some s
  | .unfinished => none

/-- A whole walk always ends within the bound (R217). -/
theorem walkAll_finishes (visit : Nat → Tally → State → Access Tally) {n : Nat} {l : Level} {p : WalkPos} (t : Tally)
    (s : State) (h : walkCost l p < n) : walkAll visit n l p t s ≠ .unfinished := by
  induction n generalizing l p t s with
  | zero => omega
  | succ n ih =>
    have hf := advance_finishes s (walkCost_lt_fuel l p)
    have hc : ∀ r l' p' s', advance walkFuel l p s = .record r l' p' s' → walkCost l' p' < walkCost l p :=
      fun _ _ _ _ h => advance_cost h
    unfold walkAll
    split <;> rename_i e <;> simp only [e] at hf hc
    · exact absurd rfl hf
    · nofun
    · nofun
    · have := hc _ _ _ _ rfl
      split
      · nofun
      · exact ih _ _ (by omega)

theorem walkAll_walkMemStep {P : State → Word → Prop} {visit : Nat → Tally → State → Access Tally}
    (hv : VisitTouches P visit) (hP : WalkStable P) {n : Nat} {l : Level} {p : WalkPos} {t : Tally} {s s' : State}
    (h : (walkAll visit n l p t s).state? = some s') : WalkMemStep (P s) s s' := by
  induction n generalizing l p t s with
  | zero => cases h
  | succ n ih =>
    have ha := @advance_walkStep walkFuel l p s
    unfold walkAll at h
    split at h <;> rename_i e <;> rw [e] at ha
    · cases h
    · cases h
      exact (ha rfl).walkMemStep
    · cases h
      exact (ha rfl).walkMemStep
    next r _ _ s1 =>
      have h1 : WalkMemStep (P s) s s1 := (ha rfl).walkMemStep
      have h2 := visitFrames_memStep hv hP (pageFrames r.size) r.firstFrame { t with records := t.records + 1 } s1
      split at h <;> rename_i e2 <;> rw [e2] at h2
      · cases h
        exact h1.trans (h2.walkMemStep.mono (hP _ _ _ h1))
      · have h3 := h1.trans (h2.walkMemStep.mono (hP _ _ _ h1))
        exact h3.trans ((ih h).mono (hP _ _ _ h3))

/-- Visits that read leave a whole walk changing nothing but the port's answers and the walker. -/
theorem walkAll_walkStep {visit : Nat → Tally → State → Access Tally}
    (hv : ∀ f t s, ReadStep s (visit f t s).state) {n : Nat} {l : Level} {p : WalkPos} {t : Tally} {s s' : State}
    (h : (walkAll visit n l p t s).state? = some s') : WalkStep s s' := by
  have hf : ∀ n f t s, ReadStep s (visitFrames visit n f t s).state := by
    intro n
    induction n with
    | zero => exact fun _ _ _ => rfl
    | succ n ih =>
      intro f t s
      have h1 := hv f t s
      unfold visitFrames
      split
      next e => rw [e] at h1; exact h1
      next e => rw [e] at h1; exact h1.trans (ih _ _ _)
  induction n generalizing l p t s with
  | zero => cases h
  | succ n ih =>
    have ha := @advance_walkStep walkFuel l p s
    unfold walkAll at h
    split at h <;> rename_i e <;> rw [e] at ha
    · cases h
    · cases h
      exact ha rfl
    · cases h
      exact ha rfl
    next r _ _ s1 =>
      have h2 := hf (pageFrames r.size) r.firstFrame { t with records := t.records + 1 } s1
      split at h <;> rename_i e2 <;> rw [e2] at h2
      · cases h
        exact (ha rfl).trans h2.walkStep
      · exact ((ha rfl).trans h2.walkStep).trans (ih h)

theorem walkAll_fault {visit : Nat → Tally → State → Access Tally} (hv : ∀ f t s, (visit f t s).BusOnly) {n : Nat}
    {l : Level} {p : WalkPos} {t : Tally} {s s' : State} {f : FatalFault}
    (h : walkAll visit n l p t s = .fatal f s') : WalkFault f.code := by
  induction n generalizing l p t s with
  | zero => cases h
  | succ n ih =>
    unfold walkAll at h
    split at h <;> rename_i e
    · cases h
    · cases h
      exact advance_fault e
    · cases h
    · split at h <;> rename_i e2
      · cases h
        exact .inl (visitFrames_busOnly hv _ _ _ _ _ _ e2)
      · exact ih h

/-! ### Absent entries -/

theorem entryPresent_readWord (m : Memory) (a : Word) : entryPresent (m.readWord a) = (m.read a).getLsbD 0 := by
  unfold entryPresent Memory.readWord
  rw [BitVec.getLsbD_append]
  simp

/-- A walk of a top-level table without present entries ends at once (R204). -/
theorem advance_absent {s : State} {p : WalkPos} (hq : s.quiet)
    (h : ∀ i, i < 512 → entryPresent (s.tables.at p.tbl4 i) = false) :
    ∀ d n, p.idx4.val + d = 512 → d < n → ∃ q, advance n .l4 p s = .exhausted { s with walker := .done q } := by
  intro d
  induction d generalizing p with
  | zero =>
    intro n h0 hn
    obtain ⟨m, rfl⟩ : ∃ m, n = m + 1 := ⟨n - 1, by omega⟩
    have hi : (p.idx .l4).val = 512 := h0
    exact ⟨p, by simp [advance, advanceOnce, hi, popTable]⟩
  | succ d ih =>
    intro n h0 hn
    obtain ⟨m, rfl⟩ : ∃ m, n = m + 1 := ⟨n - 1, by omega⟩
    have hi : (p.idx .l4).val ≠ 512 := by
      show p.idx4.val ≠ 512
      omega
    have hs : (p.bump .l4).idx4.val = p.idx4.val + 1 := idxSucc_val hi
    obtain ⟨q, hq'⟩ := @ih (p.bump .l4) h m (by omega) (by omega)
    have ha : entryPresent (s.mem.readWord (s.phys (p.entryAddr .l4))) = false := h p.idx4.val (by omega)
    refine ⟨q, ?_⟩
    simp only [advance, advanceOnce, hi, if_false, readWord_quiet hq, visitEntry, ha, Bool.not_false, if_true]
    exact hq'

/-- WALK_MARK and WALK_CHECK over such a table answer four zeros. -/
theorem walkWhole_absent (visit : Nat → Tally → State → Access Tally) {s : State} (hq : s.quiet)
    (hp : s.physBitsValid = true) (hc : s.args.v0 &&& physMask s.physBits = 0)
    (h : ∀ i, i < 512 → entryPresent (s.tables.at (rootTable s.args.v0) i) = false) :
    ∃ q, walkWhole visit s = .next (finish .zero { s with walker := .done q }) := by
  have hf : (512 : Nat) < walkFuel := by decide
  obtain ⟨q, hq'⟩ := advance_absent (s := { s with walker := .active .l4 (.init s.args.v0) }) (p := .init s.args.v0)
    hq h 512 walkFuel rfl hf
  obtain ⟨n, hn⟩ : ∃ n, walkFuel = n + 1 := ⟨walkFuel - 1, by omega⟩
  refine ⟨q, ?_⟩
  unfold walkWhole initWalk
  simp only [hp, hc, Bool.not_true, Bool.false_eq_true, if_false, bne_self_eq_false]
  rw [show walkAll visit walkFuel = walkAll visit (n + 1) from by rw [hn]]
  simp only [walkAll, hq']
  rfl

theorem gather_nil {f : Nat → Enumeration} {l : List Nat} (h : ∀ i ∈ l, f i = .nothing) : gather f l = .nothing := by
  induction l with
  | nil => rfl
  | cons i l ih =>
    unfold gather
    rw [h i (by simp), ih (fun j hj => h j (by simp [hj]))]
    rfl

theorem andThen_nothing (a : Enumeration) : a.andThen .nothing = a := by
  obtain ⟨rs, _ | f⟩ := a
  · simp [Enumeration.andThen, Enumeration.nothing]
  · rfl

/-- A table whose only present entry is the first has the mappings of that entry. -/
theorem gather_first {f : Nat → Enumeration} (h : ∀ i, 0 < i → i < 512 → f i = .nothing) :
    gather f (indicesFrom 0) = f 0 := by
  have hl : indicesFrom 0 = 0 :: List.range' 1 511 := rfl
  rw [hl]
  unfold gather
  rw [gather_nil (fun i hi => h i (by simp at hi; omega) (by simp at hi; omega)), andThen_nothing]

/-! ### The virtual address of a record -/

/-- The four indices side by side, as a 48-bit number. -/
theorem indices_toNat {i4 i3 i2 i1 : Nat} (h4 : i4 < 512) (h3 : i3 < 512) (h2 : i2 < 512) (h1 : i1 < 512) :
    ((BitVec.ofNat 48 i4 <<< 39) ||| (BitVec.ofNat 48 i3 <<< 30) ||| (BitVec.ofNat 48 i2 <<< 21)
      ||| (BitVec.ofNat 48 i1 <<< 12)).toNat = i4 * 2 ^ 39 + i3 * 2 ^ 30 + i2 * 2 ^ 21 + i1 * 2 ^ 12 := by
  have e (i k : Nat) (hi : i < 512) (hk : k ≤ 39) : (BitVec.ofNat 48 i <<< k).toNat = i <<< k := by
    have : i * 2 ^ k < 512 * 2 ^ 39 := by
      have := Nat.pow_le_pow_right (n := 2) (by omega) hk
      calc i * 2 ^ k < 512 * 2 ^ k := by
            apply Nat.mul_lt_mul_of_pos_right hi (by positivity)
        _ ≤ _ := by omega
    rw [BitVec.toNat_shiftLeft, BitVec.toNat_ofNat, Nat.mod_eq_of_lt (by omega : i < 2 ^ 48), Nat.shiftLeft_eq,
      Nat.mod_eq_of_lt (by omega)]
  have o (a b k n : Nat) (hk : n ≤ k) (hb : b < 512) (hn : n + 9 = k) (ha : a = a / 2 ^ k * 2 ^ k) :
      a ||| b <<< n = a + b * 2 ^ n := by
    have hb' : b <<< n < 2 ^ k := by
      rw [Nat.shiftLeft_eq, ← hn, pow_add]
      have : 0 < 2 ^ n := by positivity
      nlinarith
    rw [ha, ← Nat.shiftLeft_eq (a / 2 ^ k) k, ← Nat.shiftLeft_add_eq_or_of_lt hb', Nat.shiftLeft_eq b n]
  simp only [BitVec.toNat_or, e _ _ h4, e _ _ h3, e _ _ h2, e _ _ h1, Nat.le_refl, Nat.reduceLeDiff]
  rw [Nat.shiftLeft_eq i4, o _ _ 39 30 (by omega) h3 rfl (by omega), o _ _ 30 21 (by omega) h2 rfl (by omega),
    o _ _ 21 12 (by omega) h1 rfl (by omega)]

/-- The address the walker assembles is the one R211 describes. -/
theorem virtualAddress_eq {i4 i3 i2 i1 : Nat} (h4 : i4 < 512) (h3 : i3 < 512) (h2 : i2 < 512) (h1 : i1 < 512) :
    virtualAddress i4 i3 i2 i1 = canonicalAddress i4 i3 i2 i1 := by
  have e := indices_toNat h4 h3 h2 h1
  unfold virtualAddress canonicalAddress
  apply BitVec.eq_of_toNat_eq
  rw [BitVec.toNat_signExtend, BitVec.toNat_setWidth, BitVec.toNat_ofNat, BitVec.msb_eq_decide, e]
  by_cases h : 256 ≤ i4
  · rw [if_pos h, if_pos (by simp only [decide_eq_true_eq]; omega)]
    omega
  · rw [if_neg h, if_neg (by simp only [decide_eq_true_eq]; omega)]
    omega
/-! ### The path of a position -/

theorem WalkPos.onPath_bump {p : WalkPos} {l : Level} (h : p.onPath l) : (p.bump l).onPath l := by
  intro l' hl
  have := h l' hl
  cases l <;> cases l' <;> simp_all [WalkPos.bump, WalkPos.idx, levelNumber]

/-- The path of the level above, from the path of a level. -/
theorem WalkPos.onPath_pop {p : WalkPos} {l l' : Level} (h : p.onPath l) (hl : levelNumber l < levelNumber l') :
    (p.bump l').onPath l' :=
  WalkPos.onPath_bump fun l'' h' => h l'' (by omega)

/-- Every iteration of ADVANCE leaves the tables above the level being read at an entry (R204). -/
theorem advanceOnce_onPath {l l' : Level} {p p' : WalkPos} {s : State} (h : (advanceOnce l p s).next? = some (l', p'))
    (hp : p.onPath l) : p'.onPath l' := by
  unfold advanceOnce at h
  split at h
  · cases l <;> simp only [popTable, WalkIter.next?, Option.some.injEq, Prod.mk.injEq, reduceCtorEq] at h <;>
      (obtain ⟨rfl, rfl⟩ := h; exact WalkPos.onPath_pop hp (by decide))
  next hin =>
    have hin' : (p.idx l).val < 512 := by omega
    split at h
    · cases h
    · unfold visitEntry at h
      split at h
      · simp only [WalkIter.next?, Option.some.injEq, Prod.mk.injEq] at h
        obtain ⟨rfl, rfl⟩ := h
        exact WalkPos.onPath_bump hp
      · split at h
        · cases h
        · have hd : ∀ q : WalkPos, ∀ m, (∀ k, levelNumber m < levelNumber k → q.idx k = p.idx k) →
              levelNumber l = levelNumber m + 1 → q.onPath m := by
            intro q m hq hm k hk
            rw [hq k hk]
            by_cases he : k = l
            · rw [he]; exact hin'
            · refine hp k ?_
              have : levelNumber k ≠ levelNumber l := fun e => he (by cases k <;> cases l <;> simp_all [levelNumber])
              omega
          cases l <;> simp only [followEntry, yieldRecord] at h <;> (try split at h) <;>
            simp only [WalkIter.next?, Option.some.injEq, Prod.mk.injEq, reduceCtorEq] at h <;>
            obtain ⟨rfl, rfl⟩ := h <;>
            first
            | exact WalkPos.onPath_bump hp
            | exact hd _ _ (fun k hk => by cases k <;> simp_all [levelNumber, WalkPos.idx]) rfl

/-- The position ADVANCE ends at, if it ends at one. -/
def Advance.next? : Advance → Option (Level × WalkPos)
  | .record _ l p _ => some (l, p)
  | .exhausted _ => none
  | .fatal _ _ => none
  | .unfinished => none

theorem advance_onPath {n : Nat} {l l' : Level} {p p' : WalkPos} {s : State}
    (h : (advance n l p s).next? = some (l', p')) (hp : p.onPath l) : p'.onPath l' := by
  induction n generalizing l p s with
  | zero => cases h
  | succ n ih =>
    have h1 : ∀ l' p', (advanceOnce l p s).next? = some (l', p') → p'.onPath l' := fun _ _ e => advanceOnce_onPath e hp
    unfold advance at h
    split at h <;> rename_i e <;> rw [e] at h1
    · exact ih h (h1 _ _ rfl)
    · cases h
      exact h1 _ _ rfl
    all_goals cases h

/-- A fatal fault of ADVANCE leaves the walker at the entry it stopped at. -/
theorem advance_fault_walker {n : Nat} {l : Level} {p : WalkPos} {s s' : State} {f : FatalFault}
    (h : advance n l p s = .fatal f s') (hp : p.onPath l) : ∃ l' p', s'.walker = .active l' p' ∧ p'.onPath l' := by
  induction n generalizing l p s with
  | zero => cases h
  | succ n ih =>
    have h1 : ∀ l' p', (advanceOnce l p s).next? = some (l', p') → p'.onPath l' := fun _ _ e => advanceOnce_onPath e hp
    unfold advance at h
    split at h <;> rename_i e
    · rw [e] at h1
      exact ih h (h1 _ _ rfl)
    · cases h
    · cases h
    · cases h
      exact ⟨l, p, (advanceOnce_fault e).2, hp⟩

end Sys2Proof.Machine
end

