-- ==== Sys2Proof/Laws/Exec.lean ====
section
/-! SUPPORT. The commands: for each, one lemma that says all it can do to the state, whatever the port answers. A
command that ends without touching anything but RES and STATUS is `Quiet`; a command turned away by a status `fail`s. -/

namespace Sys2Proof.Machine

/-- Only RES and STATUS differ, and a status other than OK has cleared RES. -/
def OnlyResponse (s t : State) : Prop :=
  ∃ r st, t = { s with res := r, status := st } ∧ st ≠ .fatal ∧ (st ≠ .ok → r = .zero) ∧ st ≠ .outOfMemory

/-- The statuses that turn a command away before it does anything. -/
def TurnedAway (i : Instr) (s t : State) : Prop :=
  ∃ st, t = fail st s ∧ st ≠ .ok ∧ st ≠ .fatal ∧ st ≠ .outOfMemory
    ∧ (st = .badState → permits i s.lifecycle s.arenaValid = false ∨ i = .csrWrite)
    ∧ (s.halted = true → st = .halted)

theorem TurnedAway.onlyResponse {i : Instr} {s t : State} (h : TurnedAway i s t) : OnlyResponse s t := by
  obtain ⟨st, rfl, _, h1, h2, _⟩ := h
  exact ⟨.zero, st, rfl, h1, fun _ => rfl, h2⟩

theorem gate_turnedAway {i : Instr} {s : State} {st : Status} (h : gate i s = some st) :
    TurnedAway i s (fail st s) := by
  rcases gate_cases i s with ⟨h1, h2, _⟩ | ⟨h1, _⟩ | ⟨h1, h2, h3⟩ <;> rw [h1] at h <;> cases h
  · exact ⟨_, rfl, nofun, nofun, nofun, nofun, fun _ => rfl⟩
  · refine ⟨_, rfl, nofun, nofun, nofun, fun _ => .inl h3, fun hh => ?_⟩
    rcases h2 with h2 | h2
    · rw [h2] at hh; cases hh
    · unfold runsHalted at h2
      cases i <;> simp_all [permits]

/-- A command that ran past its gate is permitted, and runs in a halted block only if it is CSR_READ or RESET. -/
theorem gate_passed {i : Instr} {s : State} (h : gate i s = none) :
    permits i s.lifecycle s.arenaValid = true ∧ (s.halted = false ∨ runsHalted i = true) := by
  rcases gate_cases i s with ⟨h1, _⟩ | ⟨_, h2, h3⟩ | ⟨h1, _⟩
  · rw [h1] at h; cases h
  · exact ⟨h3, h2⟩
  · rw [h1] at h; cases h

theorem fail_turnedAway {i : Instr} {s : State} {st : Status} (h : s.halted = false)
    (h1 : st ≠ .ok) (h2 : st ≠ .fatal) (h3 : st ≠ .outOfMemory) (h4 : st ≠ .badState) :
    TurnedAway i s (fail st s) :=
  ⟨st, rfl, h1, h2, h3, fun h => absurd h h4, fun hh => by rw [h] at hh; cases hh⟩

/-! ### The codec and the bit ranges -/

theorem codec_cases {i : Instr} {r : Quad} {s t : State} (h : codec i r s = .next t) :
    t = finish r s ∨ TurnedAway i s t := by
  unfold codec at h
  split at h <;> rename_i hg <;> cases h
  · exact .inr (gate_turnedAway hg)
  · exact .inl rfl

theorem pteRsvd_cases {i : Instr} {l : Level} {s t : State} (hi : runsHalted i = false)
    (h : pteRsvd i l s = .next t) :
    (s.physBitsValid = true ∧ t = finish
        { Quad.zero with
          v0 := violation l s.args.v0 s.physBits s.nxe
          v1 := boolWord (violation l s.args.v0 s.physBits s.nxe != 0) } s)
      ∨ TurnedAway i s t := by
  unfold pteRsvd at h
  split at h <;> rename_i hg
  · cases h
    exact .inr (gate_turnedAway hg)
  · have hh := (gate_passed hg).2
    rw [hi] at hh
    simp only [Bool.false_eq_true, or_false] at hh
    split at h <;> rename_i hp <;> cases h
    · exact .inr (fail_turnedAway hh nofun nofun nofun nofun)
    · exact .inl ⟨by simpa using hp, rfl⟩

theorem execBitx_cases {s t : State} (h : execBitx s = .next t) :
    (bitRangeValid s.args.v1 s.args.v2 = true
        ∧ t = finish { Quad.zero with v0 := bitExtract s.args.v0 s.args.v1.toNat s.args.v2.toNat } s)
      ∨ TurnedAway .bitx s t := by
  unfold execBitx at h
  split at h <;> rename_i hg
  · cases h
    exact .inr (gate_turnedAway hg)
  · have hh : s.halted = false := by simpa [runsHalted] using (gate_passed hg).2
    split at h <;> rename_i hp <;> cases h
    · exact .inr (fail_turnedAway hh nofun nofun nofun nofun)
    · exact .inl ⟨by simpa using hp, rfl⟩

theorem execBiti_cases {s t : State} (h : execBiti s = .next t) :
    (bitRangeValid s.args.v1 s.args.v2 = true
        ∧ t = finish { Quad.zero with
            v0 := bitInsert s.args.v0 s.args.v1.toNat s.args.v2.toNat s.args.v3 } s)
      ∨ TurnedAway .biti s t := by
  unfold execBiti at h
  split at h <;> rename_i hg
  · cases h
    exact .inr (gate_turnedAway hg)
  · have hh : s.halted = false := by simpa [runsHalted] using (gate_passed hg).2
    split at h <;> rename_i hp <;> cases h
    · exact .inr (fail_turnedAway hh nofun nofun nofun nofun)
    · exact .inl ⟨by simpa using hp, rfl⟩

/-! ### The arena and the bitmap builder -/

/-- A command ended in a fatal fault of code `P`, at the state `s1`. -/
def Faulted (P : FaultCode → Prop) (s1 t : State) : Prop := ∃ f, P f.code ∧ t = raiseFatal f s1

theorem execArenaFind_cases {s t : State} (h : execArenaFind s = .next t) :
    TurnedAway .arenaFind s t
      ∨ (s.halted = false ∧ s.lifecycle = .uninit ∧ s.arenaValid = false ∧ ∃ s1, ReadStep s s1
          ∧ (Faulted (fun c => c = .busError ∨ c = .lookupNotFound) s1 t
            ∨ ∃ mm start k, snapshot s = .ok mm s1
              ∧ findArena s.usableType s.args.v0.toNat s.args.v1.toNat mm 0 = some (start, k)
              ∧ t = finish
                  { v0 := BitVec.ofNat 64 start, v1 := BitVec.ofNat 64 (start + s.args.v0.toNat)
                    v2 := BitVec.ofNat 64 k, v3 := 0 } (s1.setArena start s.args.v0.toNat))) := by
  unfold execArenaFind at h
  split at h <;> rename_i hg
  · cases h
    exact .inl (gate_turnedAway hg)
  · obtain ⟨hp, hh⟩ := gate_passed hg
    have hh : s.halted = false := by simpa [runsHalted] using hh
    have hp : s.lifecycle = .uninit ∧ s.arenaValid = false := by simpa [permits] using hp
    split at h
    · cases h
      exact .inl (fail_turnedAway hh nofun nofun nofun nofun)
    · split at h
      · cases h
        exact .inl (fail_turnedAway hh nofun nofun nofun nofun)
      · have hr := snapshot_readStep s
        split at h <;> rename_i e <;> rw [e] at hr
        · cases h
          exact .inr ⟨hh, hp.1, hp.2, _, hr, .inl ⟨_, .inl (snapshot_busOnly _ _ _ e), rfl⟩⟩
        · split at h <;> rename_i ef <;> cases h
          · exact .inr ⟨hh, hp.1, hp.2, _, hr, .inr ⟨_, _, _, e, ef, rfl⟩⟩
          · exact .inr ⟨hh, hp.1, hp.2, _, hr, .inl ⟨_, .inr rfl, rfl⟩⟩

/-- The arena that ARENA_FIND finds fits (41_bootstrap_arena.md R161). -/
theorem findArena_fits {usable : Word} {size align : Nat} {mm : List MapEntry} {k0 start k : Nat}
    (h : findArena usable size align mm k0 = some (start, k)) : start + size ≤ 2 ^ 64 - 1 := by
  induction mm generalizing k0 with
  | nil => cases h
  | cons e rest ih =>
    unfold findArena at h
    split at h <;> rename_i hf
    · cases h
      unfold arenaFit at hf
      simp only [Option.ite_none_right_eq_some, Option.some.injEq] at hf
      obtain ⟨⟨_, _, h3⟩, rfl⟩ := hf
      exact h3
    · exact ih h

/-- A successful take moves the cursor up inside the arena. -/
theorem take_ok {size align start : Nat} {s s' : State} (h : take size align s = .ok (start, s')) :
    s.arena.cursor.toNat ≤ start ∧ start + size ≤ s.arena.limit.toNat
      ∧ s' = { s with arena := { s.arena with cursor := BitVec.ofNat 64 (start + size) } } := by
  rcases take_cases size align s with ⟨_, e⟩ | ⟨_, _, e⟩ | ⟨_, _, _, e⟩ | ⟨hp, hle, e⟩ <;> rw [e] at h <;> cases h
  refine ⟨?_, hle, rfl⟩
  have hpos : 0 < align := by
    unfold isPow2 at hp
    simp only [List.any_eq_true, beq_iff_eq] at hp
    obtain ⟨k, _, rfl⟩ := hp
    exact Nat.two_pow_pos k
  unfold alignUp
  have h1 := Nat.div_add_mod (s.arena.cursor.toNat + align - 1) align
  have h2 := Nat.mod_lt (s.arena.cursor.toNat + align - 1) hpos
  rw [Nat.mul_comm] at h1
  omega

theorem execArenaAlloc_cases {s t : State} (h : execArenaAlloc s = .next t) :
    TurnedAway .arenaAlloc s t
      ∨ (s.halted = false ∧ s.lifecycle = .uninit ∧ s.arenaValid = true
          ∧ ∃ start, s.arena.cursor.toNat ≤ start ∧ start + s.args.v0.toNat ≤ s.arena.limit.toNat
            ∧ t = finish
                { Quad.zero with v0 := BitVec.ofNat 64 start, v1 := BitVec.ofNat 64 (start + s.args.v0.toNat) }
                { s with arena := { s.arena with cursor := BitVec.ofNat 64 (start + s.args.v0.toNat) } }) := by
  unfold execArenaAlloc at h
  split at h <;> rename_i hg
  · cases h
    exact .inl (gate_turnedAway hg)
  · obtain ⟨hp, hh⟩ := gate_passed hg
    have hh : s.halted = false := by simpa [runsHalted] using hh
    have hp : s.lifecycle = .uninit ∧ s.arenaValid = true := by simpa [permits] using hp
    split at h <;> rename_i e <;> cases h
    · rcases take_cases s.args.v0.toNat s.args.v1.toNat s with ⟨_, e'⟩ | ⟨_, _, e'⟩ | ⟨_, _, _, e'⟩ | ⟨_, _, e'⟩ <;>
        rw [e'] at e <;> cases e
      all_goals exact .inl (fail_turnedAway hh nofun nofun nofun nofun)
    · obtain ⟨h1, h2, rfl⟩ := take_ok e
      exact .inr ⟨hh, hp.1, hp.2, _, h1, h2, rfl⟩

theorem execArenaFree_cases {s t : State} (h : execArenaFree s = .next t) :
    t = finish .zero s ∨ TurnedAway .arenaFree s t := by
  unfold execArenaFree at h
  split at h <;> rename_i hg <;> cases h
  · exact .inr (gate_turnedAway hg)
  · exact .inl rfl

/-- The frame count of a snapshot, at most 2^53 (20_memory.md R84). -/
theorem mapFrames_le (mm : List MapEntry) : mapFrames mm ≤ 2 ^ 53 := by
  have hfold : ∀ (mm : List MapEntry) (m : Nat), m ≤ 2 ^ 65 - 2 →
      mm.foldl (fun m e => max m (e.base.toNat + e.length.toNat)) m ≤ 2 ^ 65 - 2 := by
    intro mm
    induction mm with
    | nil => exact fun m h => h
    | cons e rest ih =>
      intro m h
      have := e.base.isLt
      have := e.length.isLt
      exact ih _ (by dsimp only; omega)
  have := hfold mm 0 (by omega)
  unfold mapFrames mapSpan frameSize
  omega

/-- The state BITMAP_BUILD writes its bytes in. -/
def State.beforeBuild (s : State) (start bytes frames : Nat) : State :=
  ({ s with arena := { s.arena with cursor := BitVec.ofNat 64 (start + bytes) } }).setBitmap start bytes frames

theorem execBitmapBuild_cases {s t : State} (h : execBitmapBuild s = .next t) :
    TurnedAway .bitmapBuild s t
      ∨ (s.halted = false ∧ s.lifecycle = .uninit ∧ s.arenaValid = true ∧ ∃ s1, ReadStep s s1
          ∧ (Faulted (fun c => c = .busError ∨ c = .arenaExhausted) s1 t
            ∨ ∃ mm start s3, snapshot s = .ok mm s1
              ∧ s.arena.cursor.toNat ≤ start ∧ start + ceilDiv (mapFrames mm) 8 ≤ s.arena.limit.toNat
              ∧ MemStep ((s1.beforeBuild start (ceilDiv (mapFrames mm) 8) (mapFrames mm)).bytesBetween 0
                  (ceilDiv (mapFrames mm) 8))
                  (s1.beforeBuild start (ceilDiv (mapFrames mm) 8) (mapFrames mm)) s3
              ∧ (Faulted (· = .busError) s3 t
                ∨ ∃ free, t = finish
                    { v0 := BitVec.ofNat 64 start, v1 := BitVec.ofNat 64 (ceilDiv (mapFrames mm) 8)
                      v2 := BitVec.ofNat 64 (mapFrames mm), v3 := BitVec.ofNat 64 free }
                    { s3 with lifecycle := .built, arenaValid := false }))) := by
  unfold execBitmapBuild at h
  split at h <;> rename_i hg
  · cases h
    exact .inl (gate_turnedAway hg)
  · obtain ⟨hp, hh⟩ := gate_passed hg
    have hh : s.halted = false := by simpa [runsHalted] using hh
    have hp : s.lifecycle = .uninit ∧ s.arenaValid = true := by simpa [permits] using hp
    split at h
    · cases h
      exact .inl (fail_turnedAway hh nofun nofun nofun nofun)
    · refine .inr ⟨hh, hp.1, hp.2, ?_⟩
      have hr := snapshot_readStep s
      split at h <;> rename_i e <;> rw [e] at hr
      · cases h
        exact ⟨_, hr, .inl ⟨_, .inl (snapshot_busOnly _ _ _ e), rfl⟩⟩
      next mm s1 =>
        refine ⟨s1, hr, ?_⟩
        split at h <;> rename_i et
        · cases h
          exact .inl ⟨_, .inr rfl, rfl⟩
        next start s2 =>
          obtain ⟨h1, h2, rfl⟩ := take_ok et
          have ha : s1.arena = s.arena := by rw [show s1 = _ from hr]
          rw [ha] at h1 h2
          dsimp only [buildPlan] at h
          have hm := buildBytes_memStep (buildPlan s mm start) (ceilDiv (mapFrames mm) 8) 0 0
            (s1.beforeBuild start (ceilDiv (mapFrames mm) 8) (mapFrames mm))
          have hb := buildBytes_busOnly (buildPlan s mm start) (ceilDiv (mapFrames mm) 8) 0 0
            (s1.beforeBuild start (ceilDiv (mapFrames mm) 8) (mapFrames mm))
          refine .inr ⟨mm, start, ?_⟩
          dsimp only [buildPlan, State.beforeBuild] at hm hb
          split at h <;> rename_i eb <;> rw [eb] at hm
          · cases h
            exact ⟨_, e, h1, h2, hm, .inl ⟨_, hb _ _ eb, rfl⟩⟩
          · cases h
            exact ⟨_, e, h1, h2, hm, .inr ⟨_, rfl⟩⟩

/-! ### The walker -/

theorem execWalkStart_cases {s t : State} (h : execWalkStart s = .next t) :
    TurnedAway .walkStart s t
      ∨ (s.halted = false ∧ (Faulted (· = .reservedBit) s t
          ∨ t = finish { Quad.zero with v0 := rootTable s.args.v0 }
              { s with walker := .active .l4 (.init s.args.v0) })) := by
  unfold execWalkStart at h
  split at h <;> rename_i hg
  · cases h
    exact .inl (gate_turnedAway hg)
  · have hh : s.halted = false := by simpa [runsHalted] using (gate_passed hg).2
    split at h
    · cases h
      exact .inl (fail_turnedAway hh nofun nofun nofun nofun)
    · unfold initWalk at h
      split at h <;> rename_i e <;> split at e <;> cases e <;> cases h
      · exact .inr ⟨hh, .inl ⟨_, rfl, rfl⟩⟩
      · exact .inr ⟨hh, .inr rfl⟩

theorem execWalkNext_cases {s t : State} (h : execWalkNext s = .next t) :
    TurnedAway .walkNext s t
      ∨ (s.halted = false ∧ ((∃ p, s.walker = .done p ∧ t = finish .zero s)
          ∨ ∃ l p, s.walker = .active l p
            ∧ ((∃ f s1, advance walkFuel l p s = .fatal f s1 ∧ t = raiseFatal f s1)
              ∨ (∃ s1, advance walkFuel l p s = .exhausted s1 ∧ t = finish .zero s1)
              ∨ ∃ r l' p' s1, advance walkFuel l p s = .record r l' p' s1
                ∧ t = finish { v0 := r.va, v1 := r.pa, v2 := pageSizeCode r.size, v3 := 1 } s1))) := by
  unfold execWalkNext at h
  split at h <;> rename_i hg
  · cases h
    exact .inl (gate_turnedAway hg)
  · have hh : s.halted = false := by simpa [runsHalted] using (gate_passed hg).2
    split at h <;> rename_i hw
    · cases h
      exact .inl (fail_turnedAway hh nofun nofun nofun nofun)
    · split at h <;> cases h
      · exact .inl (fail_turnedAway hh nofun nofun nofun nofun)
      · exact .inr ⟨hh, .inl ⟨_, hw, rfl⟩⟩
    · split at h
      · cases h
        exact .inl (fail_turnedAway hh nofun nofun nofun nofun)
      · refine .inr ⟨hh, .inr ⟨_, _, hw, ?_⟩⟩
        split at h <;> rename_i e <;> cases h
        · exact .inr (.inr ⟨_, _, _, _, e, rfl⟩)
        · exact .inr (.inl ⟨_, e, rfl⟩)
        · exact .inl ⟨_, _, e, rfl⟩

/-- All the common part of WALK_MARK and WALK_CHECK can do, for a walk whose end is related by `R` to its start. -/
theorem walkWhole_cases {visit : Nat → Tally → State → Access Tally} {i : Instr} {R : State → State → Prop}
    {s t : State} (hR : ∀ s2, (walkAll visit walkFuel .l4 (.init s.args.v0) .zero
      { s with walker := .active .l4 (.init s.args.v0) }).state? = some s2 →
        R { s with walker := .active .l4 (.init s.args.v0) } s2)
    (hb : ∀ f t s, (visit f t s).BusOnly) (hh : s.halted = false) (h : walkWhole visit s = .next t) :
    TurnedAway i s t
      ∨ Faulted (· = .reservedBit) s t
      ∨ ∃ s2, R { s with walker := .active .l4 (.init s.args.v0) } s2
          ∧ (Faulted WalkFault s2 t
            ∨ ∃ y, walkAll visit walkFuel .l4 (.init s.args.v0) .zero
                  { s with walker := .active .l4 (.init s.args.v0) } = .done y s2
                ∧ t = finish
                  { v0 := BitVec.ofNat 64 y.hits, v1 := BitVec.ofNat 64 y.total
                    v2 := BitVec.ofNat 64 y.outOfRange, v3 := BitVec.ofNat 64 y.records } s2) := by
  unfold walkWhole at h
  split at h
  · cases h
    exact .inl (fail_turnedAway hh nofun nofun nofun nofun)
  · unfold initWalk at h
    split at h <;> rename_i e <;> split at e <;> cases e
    · cases h
      exact .inr (.inl ⟨_, rfl, rfl⟩)
    · refine .inr (.inr ?_)
      split at h <;> rename_i ew <;> rw [ew] at hR
      · cases h
      · cases h
        exact ⟨_, hR _ rfl, .inl ⟨_, walkAll_fault hb ew, rfl⟩⟩
      · cases h
        exact ⟨_, hR _ rfl, .inr ⟨_, ew, rfl⟩⟩

theorem execWalkMark_cases {s t : State} (h : execWalkMark s = .next t) :
    TurnedAway .walkMark s t
      ∨ (s.halted = false ∧ (s.lifecycle = .built ∨ s.lifecycle = .inuse)
          ∧ (Faulted (· = .reservedBit) s t
            ∨ ∃ s2, WalkMemStep s.trackedByte { s with walker := .active .l4 (.init s.args.v0) } s2
              ∧ (Faulted WalkFault s2 t
                ∨ ∃ y, walkAll markFrame walkFuel .l4 (.init s.args.v0) .zero
                      { s with walker := .active .l4 (.init s.args.v0) } = .done y s2
                    ∧ t = finish
                      { v0 := BitVec.ofNat 64 y.hits, v1 := BitVec.ofNat 64 y.total
                        v2 := BitVec.ofNat 64 y.outOfRange, v3 := BitVec.ofNat 64 y.records } s2))) := by
  unfold execWalkMark at h
  split at h <;> rename_i hg
  · cases h
    exact .inl (gate_turnedAway hg)
  · obtain ⟨hp, hh⟩ := gate_passed hg
    have hh : s.halted = false := by simpa [runsHalted] using hh
    have hp : s.lifecycle = .built ∨ s.lifecycle = .inuse := by simpa [permits] using hp
    rcases walkWhole_cases (i := .walkMark)
      (fun _ => walkAll_walkMemStep markFrame_memStep trackedByte_stable) markFrame_busOnly hh h with h | h | h
    · exact .inl h
    · exact .inr ⟨hh, hp, .inl h⟩
    · exact .inr ⟨hh, hp, .inr h⟩

theorem execWalkCheck_cases {s t : State} (h : execWalkCheck s = .next t) :
    TurnedAway .walkCheck s t
      ∨ (s.halted = false ∧ (Faulted (· = .reservedBit) s t
            ∨ ∃ s2, WalkStep { s with walker := .active .l4 (.init s.args.v0) } s2
              ∧ (Faulted WalkFault s2 t
                ∨ ∃ y, walkAll checkFrame walkFuel .l4 (.init s.args.v0) .zero
                      { s with walker := .active .l4 (.init s.args.v0) } = .done y s2
                    ∧ t = finish
                      { v0 := BitVec.ofNat 64 y.hits, v1 := BitVec.ofNat 64 y.total
                        v2 := BitVec.ofNat 64 y.outOfRange, v3 := BitVec.ofNat 64 y.records } s2))) := by
  unfold execWalkCheck at h
  split at h <;> rename_i hg
  · cases h
    exact .inl (gate_turnedAway hg)
  · have hh : s.halted = false := by simpa [runsHalted] using (gate_passed hg).2
    rcases walkWhole_cases (i := .walkCheck)
      (fun _ => walkAll_walkStep checkFrame_readStep) checkFrame_busOnly hh h with h | h | h
    · exact .inl h
    · exact .inr ⟨hh, .inl h⟩
    · exact .inr ⟨hh, .inr h⟩

/-! ### The allocator -/

theorem execFrameAlloc_cases {s t : State} (h : execFrameAlloc s = .next t) :
    TurnedAway .frameAlloc s t
      ∨ (s.halted = false ∧ (s.lifecycle = .built ∨ s.lifecycle = .inuse)
          ∧ ∃ s1, MemStep (s.bytesBetween 0 s.bitmap.bytes.toNat) { s with lifecycle := .inuse } s1
            ∧ (Faulted (· = .busError) s1 t
              ∨ (ReadStep { s with lifecycle := .inuse } s1 ∧ t = fail .outOfMemory s1)
              ∨ ∃ f, t = finish
                  { v0 := frameStart f, v1 := pageSizeCode .kib4, v2 := BitVec.ofNat 64 f, v3 := 0 } s1)) := by
  unfold execFrameAlloc at h
  split at h <;> rename_i hg
  · cases h
    exact .inl (gate_turnedAway hg)
  · obtain ⟨hp, hh⟩ := gate_passed hg
    have hh : s.halted = false := by simpa [runsHalted] using hh
    have hp : s.lifecycle = .built ∨ s.lifecycle = .inuse := by simpa [permits] using hp
    refine .inr ⟨hh, hp, ?_⟩
    have hu : s.enterUse = { s with lifecycle := .inuse } := by
      unfold State.enterUse
      rcases hp with e | e <;> simp only [e, reduceCtorEq, if_true, if_false]
      rw [← e]
    rw [hu] at h
    have hm := scanFree_memStep s.bitmap.bytes.toNat 0 { s with lifecycle := .inuse }
    split at h <;> rename_i e <;> cases h <;> (rw [e] at hm; refine ⟨_, hm, ?_⟩)
    · exact .inl ⟨_, scanFree_busOnly _ _ _ _ _ e, rfl⟩
    · exact .inr (.inl ⟨scanFree_none_readStep e, rfl⟩)
    · exact .inr (.inr ⟨_, rfl⟩)

theorem execFrameFree_cases {s t : State} (h : execFrameFree s = .next t) :
    TurnedAway .frameFree s t
      ∨ (s.halted = false ∧ (s.lifecycle = .built ∨ s.lifecycle = .inuse)
          ∧ ∃ f n s1, f + n ≤ s.bitmap.frameCount.toNat
            ∧ MemStep (s.frameBytesBetween f n) { s with lifecycle := .inuse } s1
            ∧ (Faulted (· = .busError) s1 t
              ∨ ∃ cleared, t = finish { Quad.zero with v0 := BitVec.ofNat 64 cleared } s1)) := by
  unfold execFrameFree at h
  split at h <;> rename_i hg
  · cases h
    exact .inl (gate_turnedAway hg)
  · obtain ⟨hp, hh⟩ := gate_passed hg
    have hh : s.halted = false := by simpa [runsHalted] using hh
    have hp : s.lifecycle = .built ∨ s.lifecycle = .inuse := by simpa [permits] using hp
    have hu : s.enterUse = { s with lifecycle := .inuse } := by
      unfold State.enterUse
      rcases hp with e | e <;> simp only [e, reduceCtorEq, if_true, if_false]
      rw [← e]
    split at h
    · cases h
      exact .inl (fail_turnedAway hh nofun nofun nofun nofun)
    next sz _ =>
      split at h
      · cases h
        exact .inl (fail_turnedAway hh nofun nofun nofun nofun)
      · split at h
        · cases h
          exact .inl (fail_turnedAway hh nofun nofun nofun nofun)
        · rw [hu] at h
          have hm := freeFrames_memStep (pageFrames sz) (s.args.v0.toNat / frameSize) 0
            { s with lifecycle := .inuse }
          refine .inr ⟨hh, hp, s.args.v0.toNat / frameSize, pageFrames sz, ?_⟩
          split at h <;> rename_i e <;> cases h <;> (rw [e] at hm; refine ⟨_, by omega, hm, ?_⟩)
          · exact .inl ⟨_, freeFrames_busOnly _ _ _ _ _ _ e, rfl⟩
          · exact .inr ⟨_, rfl⟩

theorem execFrameTest_cases {s t : State} (h : execFrameTest s = .next t) :
    TurnedAway .frameTest s t
      ∨ (s.halted = false ∧ ∃ s1, ReadStep s s1
          ∧ (Faulted (· = .busError) s1 t ∨ ∃ b, t = finish { Quad.zero with v0 := boolWord b } s1)) := by
  unfold execFrameTest at h
  split at h <;> rename_i hg
  · cases h
    exact .inl (gate_turnedAway hg)
  · have hh : s.halted = false := by simpa [runsHalted] using (gate_passed hg).2
    split at h
    · cases h
      exact .inl (fail_turnedAway hh nofun nofun nofun nofun)
    · have hr := readByte_readStep (s.frameByteAddr s.args.v0.toNat) s
      refine .inr ⟨hh, ?_⟩
      split at h <;> rename_i e <;> cases h <;> (rw [e] at hr; refine ⟨_, hr, ?_⟩)
      · exact .inl ⟨_, readByte_busOnly _ _ _ _ e, rfl⟩
      · exact .inr ⟨_, rfl⟩

theorem execFreeCount_cases {s t : State} (h : execFreeCount s = .next t) :
    TurnedAway .freeCount s t
      ∨ (s.halted = false ∧ ∃ s1, ReadStep s s1
          ∧ (Faulted (· = .busError) s1 t
            ∨ ∃ free, t = finish { Quad.zero with v0 := BitVec.ofNat 64 free, v1 := s.bitmap.frameCount } s1)) := by
  unfold execFreeCount at h
  split at h <;> rename_i hg
  · cases h
    exact .inl (gate_turnedAway hg)
  · have hh : s.halted = false := by simpa [runsHalted] using (gate_passed hg).2
    have hr := countFree_readStep s.bitmap.bytes.toNat 0 0 s
    refine .inr ⟨hh, ?_⟩
    split at h <;> rename_i e <;> cases h <;> (rw [e] at hr; refine ⟨_, hr, ?_⟩)
    · exact .inl ⟨_, countFree_busOnly _ _ _ _ _ _ e, rfl⟩
    next free s1 =>
      exact .inr ⟨free, rfl⟩

theorem execBitmapFreeze_cases {s t : State} (h : execBitmapFreeze s = .next t) :
    TurnedAway .bitmapFreeze s t
      ∨ (s.halted = false ∧ (s.lifecycle = .built ∨ s.lifecycle = .inuse)
          ∧ t = finish .zero { s with lifecycle := .frozen }) := by
  unfold execBitmapFreeze at h
  split at h <;> rename_i hg <;> cases h
  · exact .inl (gate_turnedAway hg)
  · obtain ⟨hp, hh⟩ := gate_passed hg
    have hh : s.halted = false := by simpa [runsHalted] using hh
    have hp : s.lifecycle = .built ∨ s.lifecycle = .inuse := by simpa [permits] using hp
    exact .inr ⟨hh, hp, rfl⟩

/-! ### Control -/

theorem execCsrRead_cases {s t : State} (h : execCsrRead s = .next t) :
    (∃ c, csrOf s.args.v0 = some c ∧ t = finish { Quad.zero with v0 := s.readCsr c } s)
      ∨ (csrOf s.args.v0 = none ∧ t = fail .badAccess s) := by
  have hg : gate .csrRead s = none := by simp [gate, runsHalted, permits]
  unfold execCsrRead at h
  rw [hg] at h
  dsimp only at h
  split at h <;> rename_i e <;> cases h
  · exact .inr ⟨e, rfl⟩
  · exact .inl ⟨_, e, rfl⟩

theorem execCsrWrite_cases {s t : State} (h : execCsrWrite s = .next t) :
    TurnedAway .csrWrite s t
      ∨ (s.halted = false ∧ ∃ c, csrOf s.args.v0 = some c
          ∧ (csrAccess c = .rw ∨ csrAccess c = .uninitOnly ∧ s.lifecycle = .uninit)
          ∧ t = finish { Quad.zero with v0 := (s.writeCsr c s.args.v1).readCsr c } (s.writeCsr c s.args.v1)) := by
  unfold execCsrWrite at h
  split at h <;> rename_i hg
  · cases h
    exact .inl (gate_turnedAway hg)
  · have hh : s.halted = false := by simpa [runsHalted] using (gate_passed hg).2
    split at h <;> rename_i hc
    · cases h
      exact .inl (fail_turnedAway hh nofun nofun nofun nofun)
    · split at h <;> rename_i ha
      · cases h
        exact .inl (fail_turnedAway hh nofun nofun nofun nofun)
      · cases h
        exact .inr ⟨hh, _, hc, .inl ha, rfl⟩
      · split at h <;> rename_i hl <;> cases h
        · exact .inl ⟨_, rfl, nofun, nofun, nofun, fun _ => .inr rfl, fun e => by rw [hh] at e; cases e⟩
        · exact .inr ⟨hh, _, hc, .inr ⟨ha, by simpa using hl⟩, rfl⟩

theorem execReset_eq (s : State) : execReset s = .next (resetBlock s) := by
  have hg : gate .reset s = none := by simp [gate, runsHalted, permits]
  unfold execReset
  rw [hg]
  rfl

/-! ### The commands that only answer -/

/-- The commands that touch neither memory nor a register besides STATUS and RES: the codec, the bit ranges,
ARENA_FREE. -/
def answersOnly (i : Instr) : Bool :=
  match i with
  | .arenaFind | .arenaAlloc | .bitmapBuild | .walkStart | .walkNext | .walkMark | .walkCheck
  | .frameAlloc | .frameFree | .frameTest | .freeCount | .bitmapFreeze | .csrRead | .csrWrite | .reset => false
  | .pteNewL1 | .pteNewL2 | .pteNewL3 | .pteNewL4 | .pteFlagsL1 | .pteFlagsL2 | .pteFlagsL3 | .pteFlagsL4
  | .pteFrameL1 | .pteFrameL2 | .pteFrameL3 | .pteFrameL4
  | .ptePresentL1 | .ptePresentL2 | .ptePresentL3 | .ptePresentL4 | .pteLargeL2 | .pteLargeL3
  | .pteRsvdL1 | .pteRsvdL2 | .pteRsvdL3 | .pteRsvdL4 | .bitx | .biti | .arenaFree => true

theorem exec_answersOnly {i : Instr} {s t : State} (hi : answersOnly i = true) (h : exec i s = .next t) :
    (∃ r, t = finish r s) ∨ TurnedAway i s t := by
  have hc : ∀ {j r}, codec j r s = .next t → (∃ r, t = finish r s) ∨ TurnedAway j s t :=
    fun h => (codec_cases h).imp (fun h => ⟨_, h⟩) id
  have hr : ∀ {j l}, runsHalted j = false → pteRsvd j l s = .next t → (∃ r, t = finish r s) ∨ TurnedAway j s t :=
    fun hj h => (pteRsvd_cases hj h).imp (fun h => ⟨_, h.2⟩) id
  cases i
  case pteRsvdL1 | pteRsvdL2 | pteRsvdL3 | pteRsvdL4 => exact hr rfl h
  case bitx => exact (execBitx_cases h).imp (fun h => ⟨_, h.2⟩) id
  case biti => exact (execBiti_cases h).imp (fun h => ⟨_, h.2⟩) id
  case arenaFree => exact (execArenaFree_cases h).imp (fun h => ⟨_, h⟩) id
  all_goals first | exact hc h | cases hi

end Sys2Proof.Machine
end

