-- ==== Sys2Proof/Laws/Effect.lean ====
section
/-! SUPPORT. What every command can do, in one lemma (`exec_ends`): it is turned away, or it reaches a state that
differs from the first in the parts the command owns (`Effect`) and ends there with OK, in a fatal fault, or with
OUT_OF_MEMORY. Claims over all commands cite it and unfold no command. -/

namespace Sys2Proof.Machine

/-- The six registers that CSR_WRITE writes are the same. -/
def SameConfig (s s1 : State) : Prop :=
  s1.ctrl = s.ctrl ∧ s1.dmapOffset = s.dmapOffset ∧ s1.mmapBase = s.mmapBase
    ∧ s1.mmapCount = s.mmapCount ∧ s1.addrWidths = s.addrWidths ∧ s1.usableType = s.usableType

/-- How the state `s1` just before the end of a command differs from the state `s` it started in. -/
structure Effect (i : Instr) (s s1 : State) : Prop where
  frame : s1 = { s with
    lifecycle := s1.lifecycle, arenaValid := s1.arenaValid, walker := s1.walker, ctrl := s1.ctrl
    dmapOffset := s1.dmapOffset, mmapBase := s1.mmapBase, mmapCount := s1.mmapCount, addrWidths := s1.addrWidths
    usableType := s1.usableType, arena := s1.arena, bitmap := s1.bitmap, mem := s1.mem, answers := s1.answers }
  lifecycle : s1.lifecycle = s.lifecycle
    ∨ (i = .frameAlloc ∨ i = .frameFree) ∧ (s.lifecycle = .built ∨ s.lifecycle = .inuse) ∧ s1.lifecycle = .inuse
    ∨ i = .bitmapFreeze ∧ (s.lifecycle = .built ∨ s.lifecycle = .inuse) ∧ s1.lifecycle = .frozen
    ∨ i = .bitmapBuild ∧ s.lifecycle = .uninit ∧ s.arenaValid = true ∧ s1.lifecycle = .built ∧ s1.arenaValid = false
  arenaValid : s1.arenaValid = s.arenaValid
    ∨ i = .arenaFind ∧ s.arenaValid = false ∧ s.lifecycle = .uninit ∧ s1.arenaValid = true
    ∨ i = .bitmapBuild ∧ s1.arenaValid = false
  walker : s1.walker = s.walker ∨ i ∈ [Instr.walkStart, .walkNext, .walkMark, .walkCheck]
  config : SameConfig s s1 ∨ i = .csrWrite
  arena : s1.arena = s.arena
    ∨ i = .arenaFind ∧ s.arenaValid = false
    ∨ (i = .arenaAlloc ∨ i = .bitmapBuild) ∧ s.arena.cursor.toNat ≤ s1.arena.cursor.toNat
        ∧ s1.arena.base = s.arena.base ∧ s1.arena.limit = s.arena.limit
  bitmap : s1.bitmap = s.bitmap ∨ i = .bitmapBuild
  mem : s1.mem = s.mem ∨ i ∈ [Instr.bitmapBuild, .walkMark, .frameAlloc, .frameFree]
  wf : s.mem.wf = true → s1.mem.wf = true
  bytes : s.mem.wf = true → s.bitmap.bytes.toNat = (s.bitmap.frameCount.toNat + 7) / 8 →
    ∀ a, (∀ k, k < s1.bitmap.bytes.toNat → a ≠ s1.bitmapAddr k) → s1.mem.read a = s.mem.read a

/-- What a command that ends in a fatal fault leaves as it was (60_exceptions.md R309): it has not changed ARENA_VALID,
only BITMAP_BUILD has moved the arena, only a walk its position, and LIFECYCLE is as it was, but INUSE after the two
commands that move it there before their first access (log entry 10). -/
structure FaultFrame (i : Instr) (s s1 : State) : Prop where
  arenaValid : s1.arenaValid = s.arenaValid
  arena : s1.arena = s.arena ∨ i = .bitmapBuild
  walker : s1.walker = s.walker ∨ i ∈ [Instr.walkNext, .walkMark, .walkCheck]
  lifecycle : s1.lifecycle = if i = .frameAlloc ∨ i = .frameFree then .inuse else s.lifecycle

/-- How a command other than RESET ends. -/
def Ends (i : Instr) (s t : State) : Prop :=
  TurnedAway i s t ∨ (i = .csrRead ∧ t = fail .badAccess s)
    ∨ ∃ s1, Effect i s s1 ∧
        ((∃ r, t = finish r s1)
          ∨ (∃ f, f.code ∈ faultsOf i ∧ t = raiseFatal f s1 ∧ FaultFrame i s s1)
          ∨ (i = .frameAlloc ∧ ReadStep { s with lifecycle := .inuse } s1 ∧ t = fail .outOfMemory s1))

theorem SameConfig.refl (s : State) : SameConfig s s := ⟨rfl, rfl, rfl, rfl, rfl, rfl⟩

theorem Effect.refl (i : Instr) (s : State) : Effect i s s :=
  ⟨rfl, .inl rfl, .inl rfl, .inl rfl, .inl (.refl s), .inl rfl, .inl rfl, .inl rfl, id, fun _ _ _ _ => rfl⟩

theorem Effect.ofRead {i : Instr} {s s1 : State} (h : ReadStep s s1) : Effect i s s1 := by
  rw [h]
  exact ⟨rfl, .inl rfl, .inl rfl, .inl rfl, .inl (.refl s), .inl rfl, .inl rfl, .inl rfl, id, fun _ _ _ _ => rfl⟩

theorem Effect.ofWalk {i : Instr} {s s1 : State} (hi : i ∈ [Instr.walkStart, .walkNext, .walkMark, .walkCheck])
    (h : WalkStep s s1) : Effect i s s1 := by
  rw [h]
  exact ⟨rfl, .inl rfl, .inl rfl, .inr hi, .inl (.refl s), .inl rfl, .inl rfl, .inl rfl, id, fun _ _ _ _ => rfl⟩

theorem Ends.ok {i : Instr} {s s1 : State} {r : Quad} (h : Effect i s s1) : Ends i s (finish r s1) :=
  .inr (.inr ⟨s1, h, .inl ⟨r, rfl⟩⟩)

theorem Ends.fatal {i : Instr} {s s1 t : State} {P : FaultCode → Prop} (ht : Faulted P s1 t) (h : Effect i s s1)
    (hP : ∀ c, P c → c ∈ faultsOf i) (hv : FaultFrame i s s1) : Ends i s t := by
  obtain ⟨f, hf, rfl⟩ := ht
  exact .inr (.inr ⟨s1, h, .inr (.inl ⟨f, hP _ hf, rfl, hv⟩)⟩)

theorem FaultFrame.refl {i : Instr} (hi : ¬ (i = .frameAlloc ∨ i = .frameFree)) (s : State) : FaultFrame i s s :=
  ⟨rfl, .inl rfl, .inl rfl, by rw [if_neg hi]⟩

theorem FaultFrame.ofRead {i : Instr} {s s1 : State} (hi : ¬ (i = .frameAlloc ∨ i = .frameFree)) (h : ReadStep s s1) :
    FaultFrame i s s1 := by
  rw [h]
  exact ⟨rfl, .inl rfl, .inl rfl, by rw [if_neg hi]⟩

theorem FaultFrame.ofWalk {i : Instr} {s s1 : State} {w : Walker} {P : Word → Prop}
    (hi : i ∈ [Instr.walkNext, .walkMark, .walkCheck]) (h : WalkMemStep P { s with walker := w } s1) :
    FaultFrame i s s1 := by
  rw [h.frame]
  exact ⟨rfl, .inl rfl, .inr hi, by rw [if_neg (by rintro (rfl | rfl) <;> exact absurd hi (by decide))]⟩

theorem FaultFrame.ofUse {i : Instr} {s s1 : State} {P : Word → Prop} (hi : i = .frameAlloc ∨ i = .frameFree)
    (h : MemStep P { s with lifecycle := .inuse } s1) : FaultFrame i s s1 := by
  rw [h.frame]
  exact ⟨rfl, .inl rfl, .inl rfl, by rw [if_pos hi]⟩

theorem execArenaFind_ends {s t : State} (h : execArenaFind s = .next t) : Ends .arenaFind s t := by
  rcases execArenaFind_cases h with h | ⟨_, hu, hv, s1, h1, hf | ⟨mm, st, k, hs, hfit, rfl⟩⟩
  · exact .inl h
  · exact .fatal hf (.ofRead h1) (by rintro c (rfl | rfl) <;> decide) (.ofRead (by decide) h1)
  · refine .ok ?_
    rw [h1]
    exact ⟨rfl, .inl rfl, .inr (.inl ⟨rfl, hv, hu, rfl⟩), .inl rfl, .inl (.refl s), .inr (.inl ⟨rfl, hv⟩), .inl rfl,
      .inl rfl, id, fun _ _ _ _ => rfl⟩

theorem execArenaAlloc_ends {s t : State} (h : execArenaAlloc s = .next t) : Ends .arenaAlloc s t := by
  rcases execArenaAlloc_cases h with h | ⟨_, _, hv, st, h1, h2, rfl⟩
  · exact .inl h
  · refine .ok ⟨rfl, .inl rfl, .inl rfl, .inl rfl, .inl (.refl s), .inr (.inr ⟨.inl rfl, ?_, rfl, rfl⟩), .inl rfl,
      .inl rfl, id, fun _ _ _ _ => rfl⟩
    have := s.arena.limit.isLt
    simp only [BitVec.toNat_ofNat]
    rw [Nat.mod_eq_of_lt (by omega)]
    omega

theorem execBitmapBuild_ends {s t : State} (h : execBitmapBuild s = .next t) : Ends .bitmapBuild s t := by
  rcases execBitmapBuild_cases h with h | ⟨_, hu, hv, s1, hs1, hf | ⟨mm, st, s3, _, h4, h5, h6, h7⟩⟩
  · exact .inl h
  · exact .fatal hf (.ofRead hs1) (by rintro c (rfl | rfl) <;> decide) (.ofRead (by decide) hs1)
  · have hl := s.arena.limit.isLt
    have hle := mapFrames_le mm
    set nb := ceilDiv (mapFrames mm) 8 with hnb
    have hnb2 : nb < 2 ^ 64 := by
      rw [hnb]
      unfold ceilDiv
      omega
    have hb : s.mem.wf = true → ∀ a, (∀ k, k < nb → a ≠ s3.bitmapAddr k) → s3.mem.read a = s.mem.read a := by
      intro hw a ha
      rw [h6.bytes (by rw [hs1]; exact hw) a]
      · rw [hs1]
        rfl
      · rintro ⟨k, _, hk, rfl⟩
        exact ha k (by omega) (by rw [h6.bitmapAddr_eq])
    have hby : s3.bitmap.bytes.toNat = nb := by
      rw [h6.bitmap_eq]
      simp only [State.beforeBuild, setBitmap_bitmap, BitVec.toNat_ofNat]
      rw [Nat.mod_eq_of_lt hnb2]
    have hcur : s.arena.cursor.toNat ≤ s3.arena.cursor.toNat ∧ s3.arena.base = s.arena.base
        ∧ s3.arena.limit = s.arena.limit := by
      rw [h6.frame, hs1]
      simp only [State.beforeBuild, State.setBitmap, and_true, BitVec.toNat_ofNat]
      rw [Nat.mod_eq_of_lt (by omega)]
      omega
    have hframe : s3 = { s with
        arena := s3.arena, bitmap := s3.bitmap, mem := s3.mem, answers := s3.answers } := by
      conv_lhs => rw [h6.frame]
      rw [h6.frame, hs1]
      rfl
    have hwf : s.mem.wf = true → s3.mem.wf = true := fun hw => h6.wf (by rw [hs1]; exact hw)
    rcases h7 with hf | ⟨r, rfl⟩
    · refine .fatal hf ?_ (by rintro c rfl; decide) ?_
      refine ⟨?_, ?_, ?_, ?_, ?_, .inr (.inr ⟨.inr rfl, hcur⟩), .inr rfl, .inr (by decide), hwf, ?_⟩
      · conv_lhs => rw [hframe]
        rw [hframe]
      · rw [hframe]
        exact .inl rfl
      · rw [hframe]
        exact .inl rfl
      · rw [hframe]
        exact .inl rfl
      · rw [hframe]
        exact .inl (.refl s)
      · intro hw _ a ha
        rw [hby] at ha
        exact hb hw a ha
      · rw [hframe]
        exact ⟨rfl, .inr rfl, .inl rfl, by rw [if_neg (by decide)]⟩
    · refine .ok ⟨?_, .inr (.inr (.inr ⟨rfl, hu, hv, rfl, rfl⟩)), .inr (.inr ⟨rfl, rfl⟩), ?_, ?_,
        .inr (.inr ⟨.inr rfl, hcur⟩), .inr rfl, .inr (by decide), hwf, ?_⟩
      · rw [hframe]
      · rw [hframe]
        exact .inl rfl
      · rw [hframe]
        exact .inl (.refl s)
      · intro hw _ a ha
        dsimp only at ha
        rw [hby] at ha
        exact hb hw a ha

theorem execWalkStart_ends {s t : State} (h : execWalkStart s = .next t) : Ends .walkStart s t := by
  rcases execWalkStart_cases h with h | ⟨_, hf | rfl⟩
  · exact .inl h
  · exact .fatal hf (.refl _ s) (by rintro c rfl; decide) (.refl (by decide) s)
  · exact .ok (.ofWalk (by decide) rfl)

theorem execWalkNext_ends {s t : State} (h : execWalkNext s = .next t) : Ends .walkNext s t := by
  rcases execWalkNext_cases h with
    h | ⟨_, ⟨p, _, rfl⟩ | ⟨l, p, hw, ⟨f, s1, h1, rfl⟩ | ⟨s1, h1, rfl⟩ | ⟨r, l', p', s1, h1, rfl⟩⟩⟩
  · exact .inl h
  · exact .ok (.refl _ s)
  · have hs : WalkStep s s1 := advance_walkStep (by rw [h1]; rfl)
    exact .fatal ⟨f, advance_fault h1, rfl⟩ (.ofWalk (by decide) hs)
      (by rintro c (rfl | rfl | rfl) <;> decide)
      (.ofWalk (w := s.walker) (P := fun _ => False) (by decide) hs.walkMemStep)
  · exact .ok (.ofWalk (by decide) (advance_walkStep (by rw [h1]; rfl)))
  · exact .ok (.ofWalk (by decide) (advance_walkStep (by rw [h1]; rfl)))

theorem Effect.ofMark {s s2 : State} {w : Walker} (h2 : WalkMemStep s.trackedByte { s with walker := w } s2) :
    Effect .walkMark s s2 := by
  refine ⟨?_, ?_, ?_, .inr (by decide), ?_, ?_, ?_, .inr (by decide), fun hw => h2.wf hw, ?_⟩
  · conv_lhs => rw [h2.frame]
    rw [h2.frame]
  · rw [h2.frame]
    exact .inl rfl
  · rw [h2.frame]
    exact .inl rfl
  · rw [h2.frame]
    exact .inl (.refl s)
  · rw [h2.frame]
    exact .inl rfl
  · rw [h2.frame]
    exact .inl rfl
  · intro hw hbc a ha
    refine h2.bytes hw a ?_
    rintro ⟨f, hf, rfl⟩
    refine ha (f / 8) ?_ (h2.trackedFrame_eq.2 f).symm
    rw [h2.trackedFrame_eq.1]
    show f / 8 < s.bitmap.bytes.toNat
    omega

theorem execWalkMark_ends {s t : State} (h : execWalkMark s = .next t) : Ends .walkMark s t := by
  rcases execWalkMark_cases h with h | ⟨_, _, hf | ⟨s2, h2, hf | ⟨y, _, rfl⟩⟩⟩
  · exact .inl h
  · exact .fatal hf (.refl _ s) (by rintro c rfl; decide) (.refl (by decide) s)
  · exact .fatal hf (.ofMark h2) (by rintro c (rfl | rfl | rfl) <;> decide) (.ofWalk (by decide) h2)
  · exact .ok (.ofMark h2)

theorem execWalkCheck_ends {s t : State} (h : execWalkCheck s = .next t) : Ends .walkCheck s t := by
  rcases execWalkCheck_cases h with h | ⟨_, hf | ⟨s2, h2, hf | ⟨y, _, rfl⟩⟩⟩
  · exact .inl h
  · exact .fatal hf (.refl _ s) (by rintro c rfl; decide) (.refl (by decide) s)
  all_goals
    have hs : WalkStep s s2 := by
      unfold WalkStep at *
      rw [h2]
  · exact .fatal hf (.ofWalk (by decide) hs) (by rintro c (rfl | rfl | rfl) <;> decide)
      (.ofWalk (P := fun _ => False) (by decide) h2.walkMemStep)
  · exact .ok (.ofWalk (by decide) hs)

/-- FRAME_ALLOC and FRAME_FREE in a state that has entered INUSE: the effect of writing bitmap bytes only. -/
theorem Effect.ofUse {i : Instr} {P : Word → Prop} {s s1 : State} (hi : i = .frameAlloc ∨ i = .frameFree)
    (hl : s.lifecycle = .built ∨ s.lifecycle = .inuse)
    (hP : s.bitmap.bytes.toNat = (s.bitmap.frameCount.toNat + 7) / 8 →
      ∀ a, P a → ∃ k, k < s.bitmap.bytes.toNat ∧ a = s.bitmapAddr k)
    (h1 : MemStep P { s with lifecycle := .inuse } s1) : Effect i s s1 := by
  refine ⟨?_, ?_, ?_, ?_, ?_, ?_, ?_, .inr (by rcases hi with rfl | rfl <;> decide), fun hw => h1.wf hw, ?_⟩
  · conv_lhs => rw [h1.frame]
    rw [h1.frame]
  · rw [h1.frame]
    exact .inr (.inl ⟨hi, hl, rfl⟩)
  · rw [h1.frame]
    exact .inl rfl
  · rw [h1.frame]
    exact .inl rfl
  · rw [h1.frame]
    exact .inl (.refl s)
  · rw [h1.frame]
    exact .inl rfl
  · rw [h1.frame]
    exact .inl rfl
  · intro hw hbc a ha
    refine h1.bytes hw a fun hPa => ?_
    obtain ⟨k, hk, rfl⟩ := hP hbc a hPa
    refine ha k (by rw [h1.bitmap_eq]; exact hk) ?_
    rw [h1.bitmapAddr_eq]
    rfl

theorem execFrameAlloc_ends {s t : State} (h : execFrameAlloc s = .next t) : Ends .frameAlloc s t := by
  rcases execFrameAlloc_cases h with h | ⟨_, hl, s1, h1, h2⟩
  · exact .inl h
  · have he : Effect .frameAlloc s s1 := by
      refine .ofUse (.inl rfl) hl (fun hbc a ha => ?_) h1
      obtain ⟨k, _, hk, rfl⟩ := ha
      exact ⟨k, by omega, rfl⟩
    rcases h2 with hf | ⟨hr, rfl⟩ | ⟨f, rfl⟩
    · exact .fatal hf he (by rintro c rfl; decide) (.ofUse (.inl rfl) h1)
    · exact .inr (.inr ⟨_, he, .inr (.inr ⟨rfl, hr, rfl⟩)⟩)
    · exact .ok he

theorem execFrameFree_ends {s t : State} (h : execFrameFree s = .next t) : Ends .frameFree s t := by
  rcases execFrameFree_cases h with h | ⟨_, hl, f0, n, s1, hfn, h1, h2⟩
  · exact .inl h
  · have he : Effect .frameFree s s1 := by
      refine .ofUse (.inr rfl) hl (fun hbc a ha => ?_) h1
      obtain ⟨k, _, hk, rfl⟩ := ha
      exact ⟨k / 8, by omega, rfl⟩
    rcases h2 with hf | ⟨r, rfl⟩
    · exact .fatal hf he (by rintro c rfl; decide) (.ofUse (.inr rfl) h1)
    · exact .ok he

theorem execFrameTest_ends {s t : State} (h : execFrameTest s = .next t) : Ends .frameTest s t := by
  rcases execFrameTest_cases h with h | ⟨_, s1, h1, hf | ⟨b, rfl⟩⟩
  · exact .inl h
  · exact .fatal hf (.ofRead h1) (by rintro c rfl; decide) (.ofRead (by decide) h1)
  · exact .ok (.ofRead h1)

theorem execFreeCount_ends {s t : State} (h : execFreeCount s = .next t) : Ends .freeCount s t := by
  rcases execFreeCount_cases h with h | ⟨_, s1, h1, hf | ⟨b, rfl⟩⟩
  · exact .inl h
  · exact .fatal hf (.ofRead h1) (by rintro c rfl; decide) (.ofRead (by decide) h1)
  · exact .ok (.ofRead h1)

theorem execBitmapFreeze_ends {s t : State} (h : execBitmapFreeze s = .next t) : Ends .bitmapFreeze s t := by
  rcases execBitmapFreeze_cases h with h | ⟨_, hl, rfl⟩
  · exact .inl h
  · exact .ok ⟨rfl, .inr (.inr (.inl ⟨rfl, hl, rfl⟩)), .inl rfl, .inl rfl, .inl (.refl s), .inl rfl, .inl rfl,
      .inl rfl, id, fun _ _ _ _ => rfl⟩

theorem execCsrRead_ends {s t : State} (h : execCsrRead s = .next t) : Ends .csrRead s t := by
  rcases execCsrRead_cases h with ⟨c, _, rfl⟩ | ⟨_, rfl⟩
  · exact .ok (.refl _ s)
  · exact .inr (.inl ⟨rfl, rfl⟩)

theorem execCsrWrite_ends {s t : State} (h : execCsrWrite s = .next t) : Ends .csrWrite s t := by
  rcases execCsrWrite_cases h with h | ⟨_, c, hc, _, rfl⟩
  · exact .inl h
  · refine .ok ?_
    cases c <;> exact ⟨rfl, .inl rfl, .inl rfl, .inl rfl, .inr rfl, .inl rfl, .inl rfl, .inl rfl, id,
      fun _ _ _ _ => rfl⟩

/-- How any command but RESET ends (RESET: `execReset_eq`). -/
theorem exec_ends {i : Instr} {s t : State} (h : exec i s = .next t) (hr : i ≠ .reset) : Ends i s t := by
  by_cases hp : answersOnly i = true
  · rcases exec_answersOnly hp h with ⟨r, rfl⟩ | h'
    · exact .ok (.refl i s)
    · exact .inl h'
  · cases i
    case arenaFind => exact execArenaFind_ends h
    case arenaAlloc => exact execArenaAlloc_ends h
    case bitmapBuild => exact execBitmapBuild_ends h
    case walkStart => exact execWalkStart_ends h
    case walkNext => exact execWalkNext_ends h
    case walkMark => exact execWalkMark_ends h
    case walkCheck => exact execWalkCheck_ends h
    case frameAlloc => exact execFrameAlloc_ends h
    case frameFree => exact execFrameFree_ends h
    case frameTest => exact execFrameTest_ends h
    case freeCount => exact execFreeCount_ends h
    case bitmapFreeze => exact execBitmapFreeze_ends h
    case csrRead => exact execCsrRead_ends h
    case csrWrite => exact execCsrWrite_ends h
    case reset => exact absurd rfl hr
    all_goals exact absurd rfl hp

end Sys2Proof.Machine
end

