-- ==== Sys2Proof/Laws/PerInstr.lean ====
section
/-! SUPPORT. The family DecodeEncode: the decoder reads from a command's encoded word that command, and the word's
fields pass the four checks of 30_encoding.md R96. One lemma per command. -/

namespace Sys2Proof.Laws.DecodeEncode

/-- The word the encoder writes for a command decodes to it and is well-formed. -/
def Statement (i : Instr) : Prop := decode (encode i) = .ok i ∧ (splitWord (encode i)).wellFormed = true

theorem pteNewL1 : Statement .pteNewL1 := by unfold Statement; decide
theorem pteNewL2 : Statement .pteNewL2 := by unfold Statement; decide
theorem pteNewL3 : Statement .pteNewL3 := by unfold Statement; decide
theorem pteNewL4 : Statement .pteNewL4 := by unfold Statement; decide
theorem pteFlagsL1 : Statement .pteFlagsL1 := by unfold Statement; decide
theorem pteFlagsL2 : Statement .pteFlagsL2 := by unfold Statement; decide
theorem pteFlagsL3 : Statement .pteFlagsL3 := by unfold Statement; decide
theorem pteFlagsL4 : Statement .pteFlagsL4 := by unfold Statement; decide
theorem pteFrameL1 : Statement .pteFrameL1 := by unfold Statement; decide
theorem pteFrameL2 : Statement .pteFrameL2 := by unfold Statement; decide
theorem pteFrameL3 : Statement .pteFrameL3 := by unfold Statement; decide
theorem pteFrameL4 : Statement .pteFrameL4 := by unfold Statement; decide
theorem ptePresentL1 : Statement .ptePresentL1 := by unfold Statement; decide
theorem ptePresentL2 : Statement .ptePresentL2 := by unfold Statement; decide
theorem ptePresentL3 : Statement .ptePresentL3 := by unfold Statement; decide
theorem ptePresentL4 : Statement .ptePresentL4 := by unfold Statement; decide
theorem pteLargeL2 : Statement .pteLargeL2 := by unfold Statement; decide
theorem pteLargeL3 : Statement .pteLargeL3 := by unfold Statement; decide
theorem pteRsvdL1 : Statement .pteRsvdL1 := by unfold Statement; decide
theorem pteRsvdL2 : Statement .pteRsvdL2 := by unfold Statement; decide
theorem pteRsvdL3 : Statement .pteRsvdL3 := by unfold Statement; decide
theorem pteRsvdL4 : Statement .pteRsvdL4 := by unfold Statement; decide
theorem bitx : Statement .bitx := by unfold Statement; decide
theorem biti : Statement .biti := by unfold Statement; decide
theorem arenaFind : Statement .arenaFind := by unfold Statement; decide
theorem arenaAlloc : Statement .arenaAlloc := by unfold Statement; decide
theorem arenaFree : Statement .arenaFree := by unfold Statement; decide
theorem bitmapBuild : Statement .bitmapBuild := by unfold Statement; decide
theorem walkStart : Statement .walkStart := by unfold Statement; decide
theorem walkNext : Statement .walkNext := by unfold Statement; decide
theorem walkMark : Statement .walkMark := by unfold Statement; decide
theorem walkCheck : Statement .walkCheck := by unfold Statement; decide
theorem frameAlloc : Statement .frameAlloc := by unfold Statement; decide
theorem frameFree : Statement .frameFree := by unfold Statement; decide
theorem frameTest : Statement .frameTest := by unfold Statement; decide
theorem freeCount : Statement .freeCount := by unfold Statement; decide
theorem bitmapFreeze : Statement .bitmapFreeze := by unfold Statement; decide
theorem csrRead : Statement .csrRead := by unfold Statement; decide
theorem csrWrite : Statement .csrWrite := by unfold Statement; decide
theorem reset : Statement .reset := by unfold Statement; decide

end Sys2Proof.Laws.DecodeEncode
end

