-- ==== Sys2Proof/Tests/Slice0.lean ====
section
/-! SUPPORT. The model's own tests. Expected results are those of spec/95_test_vectors.md (V1-V103, W1-W8) or worked by
hand from the rule named. After them, for every statement with hypotheses, a witness that meets them. -/

namespace Sys2Proof.Tests

section

open Sys2Proof Sys2Proof.Machine

-- One declaration after the other: every kernel evaluation waits for those before it, and each would hold a thread.
set_option Elab.async false

/-! ### Helpers -/

/-- The cells of a 64-bit word stored at an address. -/
def wordAt (p : Nat × Nat) : List Host.Cell :=
  ((List.range 8).map (fun k => (p.1 + k, BitVec.ofNat 8 (p.2 / 256 ^ k)))).filter (fun c => c.2 != 0)

/-- Memory holding the given words, at rising addresses, and zeros elsewhere. -/
def words (l : List (Nat × Nat)) : Memory := { cells := l.flatMap wordAt }

/-- Operands from numbers. -/
def ops (a b c d : Nat) : Quad :=
  { v0 := BitVec.ofNat 64 a, v1 := BitVec.ofNat 64 b, v2 := BitVec.ofNat 64 c, v3 := BitVec.ofNat 64 d }

/-- The state after a step, the reset state if there is none. -/
def after (r : Result) : State :=
  match r with
  | .next t => t
  | .fault _ => .reset
  | .refused _ => .reset

/-- One step on a command word with its operands: the state after it. -/
def send (w : Nat) (a : Quad) (s : State) : State :=
  after (step { s with inputs := [.command { cmd := BitVec.ofNat 32 w, args := a, answers := s.answers }] })

/-- STATUS and RES0..RES3 after a command. -/
def reply (s : State) : Status × List Nat := (s.status, [s.res.v0.toNat, s.res.v1.toNat, s.res.v2.toNat, s.res.v3.toNat])

/-- FAULT and FAULT_INFO0..2. -/
def faultRegs (s : State) : List Nat :=
  [(faultCode s.fault.code).toNat, s.fault.info0.toNat, s.fault.info1.toNat, s.fault.info2.toNat]

/-! ### Well-formed words (30_encoding.md R96) -/

/-- R96: each of the four checks refuses an ill-formed word, and the other three accept it. -/
theorem test_wellFormed_mbz : (splitWord 0x00000401).mbzClear = false ∧ (splitWord 0x00000401).opAssigned = true
    ∧ (splitWord 0x00000401).levelAllowed = true ∧ (splitWord 0x00000401).wellFormed = false := by decide
theorem test_wellFormed_op : (splitWord 0x00000007).opAssigned = false ∧ (splitWord 0x00000007).mbzClear = true
    ∧ (splitWord 0x00000007).levelAllowed = true ∧ (splitWord 0x00000007).wellFormed = false := by decide
theorem test_wellFormed_level : (splitWord 0x00000108).levelAllowed = false ∧ (splitWord 0x00000108).mbzClear = true
    ∧ (splitWord 0x00000108).opAssigned = true ∧ (splitWord 0x00000108).wellFormed = false := by decide
theorem test_wellFormed_large : (splitWord 0x00000005).largeLevelOk = false ∧ (splitWord 0x00000005).mbzClear = true
    ∧ (splitWord 0x00000005).levelAllowed = true ∧ (splitWord 0x00000005).wellFormed = false := by decide

/-! ### Decoding (30_encoding.md R95: each word written out from its bit pattern, MBZ LVL OP) -/

theorem test_decode_pte_new :
    decode 0b0000000000000000000000_00_00000001 = .ok .pteNewL1 ∧ decode 0b0000000000000000000000_01_00000001 = .ok .pteNewL2
    ∧ decode 0b0000000000000000000000_10_00000001 = .ok .pteNewL3
    ∧ decode 0b0000000000000000000000_11_00000001 = .ok .pteNewL4 := by decide
theorem test_decode_pte_flags :
    decode 0b0000000000000000000000_00_00000010 = .ok .pteFlagsL1
    ∧ decode 0b0000000000000000000000_01_00000010 = .ok .pteFlagsL2
    ∧ decode 0b0000000000000000000000_10_00000010 = .ok .pteFlagsL3
    ∧ decode 0b0000000000000000000000_11_00000010 = .ok .pteFlagsL4 := by decide
theorem test_decode_pte_frame :
    decode 0b0000000000000000000000_00_00000011 = .ok .pteFrameL1
    ∧ decode 0b0000000000000000000000_01_00000011 = .ok .pteFrameL2
    ∧ decode 0b0000000000000000000000_10_00000011 = .ok .pteFrameL3
    ∧ decode 0b0000000000000000000000_11_00000011 = .ok .pteFrameL4 := by decide
theorem test_decode_pte_present :
    decode 0b0000000000000000000000_00_00000100 = .ok .ptePresentL1
    ∧ decode 0b0000000000000000000000_01_00000100 = .ok .ptePresentL2
    ∧ decode 0b0000000000000000000000_10_00000100 = .ok .ptePresentL3
    ∧ decode 0b0000000000000000000000_11_00000100 = .ok .ptePresentL4 := by decide
theorem test_decode_pte_large :
    decode 0b0000000000000000000000_01_00000101 = .ok .pteLargeL2
    ∧ decode 0b0000000000000000000000_10_00000101 = .ok .pteLargeL3 := by decide
theorem test_decode_pte_rsvd :
    decode 0b0000000000000000000000_00_00000110 = .ok .pteRsvdL1
    ∧ decode 0b0000000000000000000000_01_00000110 = .ok .pteRsvdL2
    ∧ decode 0b0000000000000000000000_10_00000110 = .ok .pteRsvdL3
    ∧ decode 0b0000000000000000000000_11_00000110 = .ok .pteRsvdL4 := by decide
theorem test_decode_bit_ranges : decode 0x00000008 = .ok .bitx ∧ decode 0x00000009 = .ok .biti := by decide
theorem test_decode_arena : decode 0x00000010 = .ok .arenaFind ∧ decode 0x00000011 = .ok .arenaAlloc
    ∧ decode 0x00000012 = .ok .arenaFree := by decide
theorem test_decode_build : decode 0x00000020 = .ok .bitmapBuild := by decide
theorem test_decode_walk : decode 0x00000030 = .ok .walkStart ∧ decode 0x00000031 = .ok .walkNext
    ∧ decode 0x00000032 = .ok .walkMark ∧ decode 0x00000033 = .ok .walkCheck := by decide
theorem test_decode_frames : decode 0x00000040 = .ok .frameAlloc ∧ decode 0x00000041 = .ok .frameFree
    ∧ decode 0x00000042 = .ok .frameTest ∧ decode 0x00000043 = .ok .freeCount
    ∧ decode 0x00000044 = .ok .bitmapFreeze := by decide
theorem test_decode_control : decode 0x000000F0 = .ok .csrRead ∧ decode 0x000000F1 = .ok .csrWrite
    ∧ decode 0x000000FF = .ok .reset := by decide
/-- V18, V19, V90-V92: illegal words, and why. -/
theorem test_decode_illegal : decode 0x00000005 = .error .noLargeBitAtLevel ∧ decode 0x00000305 = .error .noLargeBitAtLevel
    ∧ decode 0x00000007 = .error .unassignedOp ∧ decode 0x00000401 = .error .mbzNotZero
    ∧ decode 0x00000108 = .error .levelNotZero := by decide
/-- The host's reading of a table row: 32 bits. -/
theorem test_decodeTableWord : decodeTableWord 32 0x301 = some .pteNewL4 ∧ decodeTableWord 32 0x305 = none
    ∧ decodeTableWord 8 0xFF = some .reset := by decide

/-! ### The codec -/

/-- ADDR_WIDTHS = 0x3027: PHYS_BITS = 39. -/
def phys39 : State := { State.reset with addrWidths := 0x3027 }

theorem test_V1_pteNewL1 : reply (send 0x001 (ops 0x0000123456789ABC 0x8000000000000103 0 0) .reset)
    = (.ok, [0x8000123456789103, 0, 0, 0]) := by decide +kernel
theorem test_V2_pteNewL4 : reply (send 0x301 (ops 0x2000 0x107 0 0) .reset) = (.ok, [0x2007, 0, 0, 0]) := by
  decide +kernel
theorem test_V3_V4_pteNewL2 : reply (send 0x101 (ops 0x200000 0xE3 0 0) .reset) = (.ok, [0x2000E3, 0, 0, 0])
    ∧ reply (send 0x101 (ops 0x1000 0x43 0 0) .reset) = (.ok, [0x1003, 0, 0, 0]) := by decide +kernel
theorem test_V5_pteNewL3 : reply (send 0x201 (ops 0xFFF0000000001FFF 1 0 0) .reset) = (.ok, [0x1001, 0, 0, 0]) := by
  decide +kernel
theorem test_V6_V11_pteFlagsL1 : reply (send 0x002 (ops 0xFFFFFFFFFFFFFFFF 0 0 0) .reset)
      = (.ok, [0x800000000000017F, 1, 0, 0])
    ∧ reply (send 0x002 (ops 0x80 0 0 0) .reset) = (.ok, [0, 1, 0, 0]) := by decide +kernel
theorem test_V7_V10_pteFlagsL2 : reply (send 0x102 (ops 0xFFFFFFFFFFFFFFFF 0 0 0) .reset) = (.ok, [0xFF, 1, 0, 0])
    ∧ reply (send 0x102 (ops 0x3067 0 0 0) .reset) = (.ok, [0x27, 1, 0, 0]) := by decide +kernel
theorem test_V8_pteFlagsL3 : reply (send 0x202 (ops 0xFFFFFFFFFFFFFFFF 0 0 0) .reset) = (.ok, [0xFF, 1, 0, 0]) := by
  decide +kernel
theorem test_V9_pteFlagsL4 : reply (send 0x302 (ops 0xFFFFFFFFFFFFFFFF 0 0 0) .reset) = (.ok, [0x3F, 1, 0, 0]) := by
  decide +kernel
/-- V12 at L2; R127 is the same at the other levels. -/
theorem test_V12_pteFrame :
    reply (send 0x103 (ops 0xFFFFFFFFFFFFFFFF 0 0 0) .reset) = (.ok, [0x000FFFFFFFFFF000, 0, 0, 0])
    ∧ reply (send 0x003 (ops 0x8000123456789103 0 0 0) .reset) = (.ok, [0x123456789000, 0, 0, 0])
    ∧ reply (send 0x203 (ops 0x2FFF 0 0 0) .reset) = (.ok, [0x2000, 0, 0, 0])
    ∧ reply (send 0x303 (ops 0xFFF0000000001001 0 0 0) .reset) = (.ok, [0x1000, 0, 0, 0]) := by decide +kernel
/-- V13, V14; R128 is the same at the other levels. -/
theorem test_V13_V14_ptePresent : reply (send 0x304 (ops 2 0 0 0) .reset) = (.ok, [0, 0, 0, 0])
    ∧ reply (send 0x004 (ops 1 0 0 0) .reset) = (.ok, [1, 0, 0, 0])
    ∧ reply (send 0x104 (ops 0xFE 0 0 0) .reset) = (.ok, [0, 0, 0, 0])
    ∧ reply (send 0x204 (ops 0x8000000000000001 0 0 0) .reset) = (.ok, [1, 0, 0, 0]) := by decide +kernel
theorem test_V15_V16_pteLargeL2 : reply (send 0x105 (ops 0x2000E3 0 0 0) .reset) = (.ok, [1, 0, 0, 0])
    ∧ reply (send 0x105 (ops 0x3003 0 0 0) .reset) = (.ok, [0, 0, 0, 0]) := by decide +kernel
theorem test_V17_pteLargeL3 : reply (send 0x205 (ops 0x80 0 0 0) .reset) = (.ok, [1, 0, 0, 0]) := by decide +kernel
theorem test_V20_V21_pteRsvdL1 : reply (send 0x006 (ops 0x0000800000001003 0 0 0) .reset) = (.badConfig, [0, 0, 0, 0])
    ∧ reply (send 0x006 (ops 0x0000800000001003 0 0 0) phys39) = (.ok, [0x0000800000000000, 1, 0, 0]) := by
  decide +kernel
theorem test_V27_V28_V29_pteRsvdL1 :
    reply (send 0x006 (ops 0xFFFFFFFFFFFFFFFE 0 0 0) phys39) = (.ok, [0, 0, 0, 0])
    ∧ reply (send 0x006 (ops 0x8000000000001003 0 0 0) { phys39 with ctrl := 0 })
        = (.ok, [0x8000000000000000, 1, 0, 0])
    ∧ reply (send 0x006 (ops 0x8000000000001003 0 0 0) phys39) = (.ok, [0, 0, 0, 0]) := by decide +kernel
theorem test_V22_pteRsvdL4 : reply (send 0x306 (ops 0x2083 0 0 0) phys39) = (.ok, [0x80, 1, 0, 0]) := by decide +kernel
theorem test_V23_V24_pteRsvdL2 : reply (send 0x106 (ops 0x2020E3 0 0 0) phys39) = (.ok, [0x2000, 1, 0, 0])
    ∧ reply (send 0x106 (ops 0x2010E3 0 0 0) phys39) = (.ok, [0, 0, 0, 0]) := by decide +kernel
theorem test_V25_V26_pteRsvdL3 : reply (send 0x206 (ops 0x40002083 0 0 0) phys39) = (.ok, [0x2000, 1, 0, 0])
    ∧ reply (send 0x206 (ops 0x40002003 0 0 0) phys39) = (.ok, [0, 0, 0, 0]) := by decide +kernel

/-! ### Bit ranges -/

theorem test_V34_V35_V36_bitx : reply (send 0x08 (ops 0x8000000000000000 63 64 0) .reset) = (.ok, [1, 0, 0, 0])
    ∧ reply (send 0x08 (ops 0x0123456789ABCDEF 0 64 0) .reset) = (.ok, [0x0123456789ABCDEF, 0, 0, 0])
    ∧ reply (send 0x08 (ops 0xFFFFFFFFFFFFFFFF 64 64 0) .reset) = (.ok, [0, 0, 0, 0]) := by decide +kernel
theorem test_V32_V33_bitx : reply (send 0x08 (ops 0xDEADBEEF 10 8 0) .reset) = (.badRange, [0, 0, 0, 0])
    ∧ reply (send 0x08 (ops 0xDEADBEEF 0 65 0) .reset) = (.badRange, [0, 0, 0, 0]) := by decide +kernel
theorem test_V37_V38_V39_biti : reply (send 0x09 (ops 0 60 64 0xF) .reset) = (.ok, [0xF000000000000000, 0, 0, 0])
    ∧ reply (send 0x09 (ops 0xDEADBEEF 0 64 0x1234) .reset) = (.ok, [0x1234, 0, 0, 0])
    ∧ reply (send 0x09 (ops 0xDEADBEEF 4 4 0xF) .reset) = (.ok, [0xDEADBEEF, 0, 0, 0]) := by decide +kernel
theorem test_V39a_biti : reply (send 0x09 (ops 0 3 65 0) .reset) = (.badRange, [0, 0, 0, 0]) := by decide +kernel

/-! ### The arena and the bitmap builder -/

/-- The map of V40 (M3) at MMAP_BASE 0x9000. -/
def m3 : State :=
  { State.reset with
    mmapBase := 0x9000, mmapCount := 4
    mem := words [(0x9000, 0), (0x9008, 0x6000), (0x9010, 0), (0x9018, 0x1800), (0x9020, 0x10), (0x9028, 1),
      (0x9030, 0x3000), (0x9038, 0x1800), (0x9040, 6), (0x9048, 0x5FFF), (0x9050, 1), (0x9058, 2)] }

/-- The map of W7, one usable entry. -/
def oneEntry (base length : Nat) : State :=
  { State.reset with
    mmapBase := 0x9000, mmapCount := 1, mem := words [(0x9000, base), (0x9008, length), (0x9010, 0)] }

/-- A state with a valid arena. -/
def withArena (s : State) (base limit cursor : Nat) : State :=
  { s with
    arenaValid := true
    arena := { base := BitVec.ofNat 64 base, limit := BitVec.ofNat 64 limit, cursor := BitVec.ofNat 64 cursor } }

theorem test_V40_arenaFind : reply (send 0x10 (ops 1 1 0 0) m3) = (.ok, [0, 1, 0, 0])
    ∧ (send 0x10 (ops 1 1 0 0) m3).arenaValid = true := by decide +kernel
/-- R161, R305: no usable entry has room; LOOKUP_NOT_FOUND holds the size, the alignment and MMAP_COUNT. -/
theorem test_arenaFind_notFound : (send 0x10 (ops 0x6001 1 0 0) m3).status = .fatal
    ∧ faultRegs (send 0x10 (ops 0x6001 1 0 0) m3) = [1, 0x6001, 1, 4] := by decide +kernel
/-- W7: the failing case, the "unless" case, and the edge at the arena's end. -/
theorem test_W7_arenaAlloc :
    reply (send 0x11 (ops 1 0x1000 0 0) (withArena (oneEntry 0x1400 0x400) 0x1400 0x1800 0x1400))
      = (.alignmentNotPossible, [0, 0, 0, 0])
    ∧ reply (send 0x11 (ops 0x400 0x1000 0 0) (withArena (oneEntry 0x2000 0x400) 0x2000 0x2400 0x2000))
      = (.ok, [0x2000, 0x2400, 0, 0])
    ∧ reply (send 0x11 (ops 1 0x1000 0 0) (withArena (oneEntry 0x1C00 0x400) 0x1C00 0x2000 0x1C00))
      = (.outOfSpace, [0, 0, 0, 0]) := by decide +kernel
/-- R165: an alignment of 0 and one that is no power of two. -/
theorem test_arenaAlloc_alignment :
    reply (send 0x11 (ops 0x10 0 0 0) (withArena .reset 0x1400 0x1800 0x1400)) = (.invalidAlignment, [0, 0, 0, 0])
    ∧ reply (send 0x11 (ops 0x10 3 0 0) (withArena .reset 0x1400 0x1800 0x1400)) = (.invalidAlignment, [0, 0, 0, 0]) := by
  decide +kernel
theorem test_arenaFree : reply (send 0x12 (ops 0x2000 0x400 0 0) .reset) = (.ok, [0, 0, 0, 0]) := by decide +kernel

/-- V42 and V43: the map, with the arena ARENA_FIND 0x10, 1 leaves. -/
def v42 : State :=
  withArena { State.reset with
    mmapBase := 0x9000, mmapCount := 3
    mem := words [(0x9000, 0), (0x9008, 0x3000), (0x9010, 0), (0x9018, 0x3000), (0x9020, 0x1800), (0x9028, 1),
      (0x9030, 0x6000), (0x9038, 0x4000), (0x9040, 0)] } 0 0x10 0

theorem test_V42_bitmapBuild : reply (send 0x20 (ops 0 0 0 0) v42) = (.ok, [0, 2, 0xA, 8])
    ∧ (send 0x20 (ops 0 0 0 0) v42).mem.read 0 = 0x18 ∧ (send 0x20 (ops 0 0 0 0) v42).mem.read 1 = 0xFC
    ∧ (send 0x20 (ops 0 0 0 0) v42).lifecycle = .built := by decide +kernel
theorem test_V43_bitmapBuild : reply (send 0x20 (ops 0 0 0 0) { v42 with ctrl := 3 }) = (.ok, [0, 2, 0xA, 7])
    ∧ (send 0x20 (ops 0 0 0 0) { v42 with ctrl := 3 }).mem.read 0 = 0x19 := by decide +kernel

/-! ### The frame allocator: the bitmap of V40, built -/

/-- After V40: frames 1, 3, 4, 5 of six used, the bitmap at physical 0. -/
def v40 : State :=
  { State.reset with
    lifecycle := .built, arena := { base := 0, limit := 1, cursor := 1 }
    bitmap := { base := 0, bytes := 1, frameCount := 6 }, mem := { cells := [(0, 0xFA)] } }

theorem test_V50_frameAlloc : reply (send 0x40 (ops 0 0 0 0) v40) = (.ok, [0, 0, 0, 0])
    ∧ (send 0x40 (ops 0 0 0 0) v40).mem.read 0 = 0xFB ∧ (send 0x40 (ops 0 0 0 0) v40).lifecycle = .inuse := by
  decide +kernel
theorem test_V51_V52_frameAlloc :
    reply (send 0x40 (ops 0 0 0 0) { v40 with mem := { cells := [(0, 0xFB)] } }) = (.ok, [0x2000, 0, 2, 0])
    ∧ reply (send 0x40 (ops 0 0 0 0) { v40 with mem := { cells := [(0, 0xFF)] } }) = (.outOfMemory, [0, 0, 0, 0]) := by
  decide +kernel
theorem test_V54_V55_V56_V57_frameFree : reply (send 0x41 (ops 0x6000 0 0 0) v40) = (.badRange, [0, 0, 0, 0])
    ∧ reply (send 0x41 (ops 0x1001 0 0 0) v40) = (.invalidAlignment, [0, 0, 0, 0])
    ∧ reply (send 0x41 (ops 0 2 0 0) v40) = (.badRange, [0, 0, 0, 0])
    ∧ reply (send 0x41 (ops 0 1 0 0) v40) = (.badRange, [0, 0, 0, 0]) := by decide +kernel
theorem test_V58_frameFree : reply (send 0x41 (ops 0x5000 0 0 0) v40) = (.ok, [1, 0, 0, 0])
    ∧ (send 0x41 (ops 0x5000 0 0 0) v40).mem.read 0 = 0xDA := by decide +kernel
theorem test_V53_frameTest : reply (send 0x42 (ops 6 0 0 0) v40) = (.badRange, [0, 0, 0, 0])
    ∧ reply (send 0x42 (ops 5 0 0 0) v40) = (.ok, [1, 0, 0, 0])
    ∧ reply (send 0x42 (ops 2 0 0 0) v40) = (.ok, [0, 0, 0, 0]) := by decide +kernel
theorem test_freeCount : reply (send 0x43 (ops 0 0 0 0) v40) = (.ok, [2, 6, 0, 0]) := by decide +kernel
theorem test_V59_bitmapFreeze : reply (send 0x44 (ops 0 0 0 0) v40) = (.ok, [0, 0, 0, 0])
    ∧ (send 0x44 (ops 0 0 0 0) v40).lifecycle = .frozen
    ∧ reply (send 0x44 (ops 0 0 0 0) { v40 with lifecycle := .frozen }) = (.badState, [0, 0, 0, 0]) := by decide +kernel

/-! ### The page walker: PHYS_BITS = 40 -/

/-- A hierarchy in memory, PHYS_BITS = 40. -/
def hierarchy (l : List (Nat × Nat)) : State := { State.reset with addrWidths := 0x3028, mem := words l }

/-- A walker at a level, its tables at 0x1000, 0x2000, 0x3000, 0x4000, at one index and 0 at the others. -/
def at4321 (l : Level) (i4 i3 i2 i1 : Fin 513) (s : State) : State :=
  { s with
    walker := .active l
      { tbl4 := 0x1000, tbl3 := 0x2000, tbl2 := 0x3000, tbl1 := 0x4000, idx4 := i4, idx3 := i3, idx2 := i2, idx1 := i1 } }

theorem test_V72_walkStart : reply (send 0x30 (ops 0x1018 0 0 0) (hierarchy [])) = (.ok, [0x1000, 0, 0, 0])
    ∧ (send 0x30 (ops 0x1018 0 0 0) (hierarchy [])).walkPosWord = 0x40000000000 := by decide +kernel
theorem test_V73_walkStart : (send 0x30 (ops 0x10000001000 0 0 0) (hierarchy [])).status = .fatal
    ∧ faultRegs (send 0x30 (ops 0x10000001000 0 0 0) (hierarchy [])) = [3, 0, 0, 0x10000001000] := by decide +kernel
/-- V70; V79: the reserved bit wins over the page size. -/
theorem test_V70_V79_walkNext : reply (send 0x31 (ops 0 0 0 0) .reset) = (.walkIdle, [0, 0, 0, 0])
    ∧ faultRegs (send 0x31 (ops 0 0 0 0)
        { hierarchy [(0x1000, 0x2003), (0x2000, 0x40002083)] with
          walker := .active .l4 { WalkPos.zero with tbl4 := 0x1000 } }) = [3, 3, 0x2000, 0x40002083] := by
  decide +kernel
/-- V81 (from the root), and the 4 KiB record of V75 (from its leaf table, at index 511 everywhere). -/
theorem test_V81_V75_walkNext :
    reply (send 0x31 (ops 0 0 0 0)
        { hierarchy [(0x1000, 0x2003), (0x2000, 0x3003), (0x3000, 0x201083), (0x3008, 0x402083)] with
          walker := .active .l4 { WalkPos.zero with tbl4 := 0x1000 } }) = (.ok, [0, 0x200000, 1, 1])
    ∧ reply (send 0x31 (ops 0 0 0 0) (at4321 .l1 511 511 511 511 (hierarchy [(0x4FF8, 0x7001)])))
      = (.ok, [0xFFFFFFFFFFFFF000, 0x7000, 0, 1]) := by decide +kernel

/-- The status and results of a result, and one byte of memory. -/
def seen (r : Result) (a : Word) : Option ((Status × List Nat) × Byte) :=
  match r with
  | .next t => some (reply t, t.mem.read a)
  | .fault _ => none
  | .refused _ => none

/-- V40's state over an empty top-level table at 0x2000. -/
def emptyWalk : State := { v40 with args := ops 0x2000 0 0 0, addrWidths := 0x3028 }

/-- V40's bitmap, and at 0x2000 a table whose entry 0 leads to itself at every level: one 4 KiB mapping, of frame 2,
which is free. -/
def selfWalk : State := { emptyWalk with mem := { cells := (0, 0xFA) :: wordAt (0x2000, 0x2001) } }

/-- The same table with a second such entry that has bit 63 set, which is reserved with NXE = 0. -/
def stopWalk : State :=
  { emptyWalk with
    ctrl := 0, mem := { cells := (0, 0xFA) :: wordAt (0x2000, 0x2001) ++ wordAt (0x2008, 0x8000000000002001) } }

/-- R215, R205, R78: frame 2 is marked, then the next leaf entry is fatal, and the mark stays. -/
theorem test_walkMark_fatal : seen (exec .walkMark stopWalk) 0 = some ((.fatal, [0, 0, 0, 0]), 0xFE)
    ∧ faultRegs (after (exec .walkMark stopWalk)) = [3, 1, 0x2008, 0x8000000000002001] := by decide +kernel
/-- R216: WALK_CHECK writes nothing. -/
theorem test_walkCheck_fatal : seen (exec .walkCheck stopWalk) 0 = some ((.fatal, [0, 0, 0, 0]), 0xFA)
    ∧ faultRegs (after (exec .walkCheck stopWalk)) = [3, 1, 0x2008, 0x8000000000002001] := by decide +kernel

/-! ### Register access and the halted block -/

theorem test_V93_V94_V95_csrRead : reply (send 0xF0 (ops 0x08 0 0 0) .reset) = (.ok, [2, 0, 0, 0])
    ∧ reply (send 0xF0 (ops 0x06 0 0 0) .reset) = (.badAccess, [0, 0, 0, 0])
    ∧ reply (send 0xF0 (ops 0x108 0 0 0) .reset) = (.badAccess, [0, 0, 0, 0]) := by decide +kernel
/-- V99: STATUS is that of the previous command; V78: STATE and WALK_POS after a fatal fault. -/
theorem test_V99_V78_csrRead : reply (send 0xF0 (ops 0 0 0 0) { State.reset with status := .badAccess }) = (.ok, [0xA, 0, 0, 0])
    ∧ reply (send 0xF0 (ops 0x01 0 0 0) (at4321 .l3 0 0 0 0 { State.reset with halted := true })) = (.ok, [0x18, 0, 0, 0])
    ∧ reply (send 0xF0 (ops 0x21 0 0 0) (at4321 .l3 0 0 0 0 .reset)) = (.ok, [0x30000000000, 0, 0, 0]) := by
  decide +kernel
theorem test_V96_V97_V98_csrWrite :
    reply (send 0xF1 (ops 0x09 0xFFFF800000000123 0 0) .reset) = (.ok, [0xFFFF800000000000, 0, 0, 0])
    ∧ reply (send 0xF1 (ops 0x0A 0x8007 0 0) .reset) = (.ok, [0x8000, 0, 0, 0])
    ∧ reply (send 0xF1 (ops 0x10 5 0 0) .reset) = (.badAccess, [0, 0, 0, 0]) := by decide +kernel
theorem test_V100_V101_csrWrite : reply (send 0xF1 (ops 0x08 0xFF 0 0) .reset) = (.ok, [3, 0, 0, 0])
    ∧ reply (send 0xF1 (ops 0x0C 0xFFFF3028 0 0) .reset) = (.ok, [0x3028, 0, 0, 0])
    ∧ reply (send 0xF1 (ops 0x09 0 0 0) { v40 with lifecycle := .frozen }) = (.badState, [0, 0, 0, 0]) := by decide +kernel
/-- R276, R330, R331: RESET clears HALTED and FAULT and leaves memory. -/
theorem test_reset : (send 0xFF (ops 1 2 3 4) { v40 with halted := true, status := .fatal })
    = { State.reset with mem := { cells := [(0, 0xFA)] } } := by decide +kernel
/-- V102: a halted block refuses commands and illegal words alike. -/
theorem test_V102_halted : reply (send 0x001 (ops 0x5000 3 0 0) { State.reset with halted := true }) = (.halted, [0, 0, 0, 0])
    ∧ reply (send 0xF1 (ops 8 0 0 0) { State.reset with halted := true }) = (.halted, [0, 0, 0, 0])
    ∧ reply (send 7 (ops 0 0 0 0) { State.reset with halted := true }) = (.halted, [0, 0, 0, 0]) := by decide +kernel
/-- The word that withFetchWord places is the next one executed. -/
theorem test_withFetchWord : reply (after (step ({ State.reset with args := ops 0x2000 0x107 0 0 }.withFetchWord 32 0x301)))
    = (.ok, [0x2007, 0, 0, 0]) := by decide +kernel

/-! ### Witnesses: for every statement with hypotheses, a state that meets them -/

/-- The tables above the level of a walk are not exhausted. -/
def pathOk : Walker → Bool
  | .idle => true
  | .done _ => true
  | .active l p => (l == .l4 || decide (p.idx4.val < 512)) && (l == .l4 || l == .l3 || decide (p.idx3.val < 512))
      && (l != .l1 || decide (p.idx2.val < 512))

theorem onPath_of {l : Level} {p : WalkPos} (h : pathOk (.active l p) = true) : p.onPath l := by
  intro l' hl
  cases l <;> cases l' <;> simp_all [pathOk, levelNumber, WalkPos.idx]

/-- The invariant from its fourteen clauses, each a closed fact of a concrete state. -/
theorem inv_of {s : State}
    (h : (s.mem.wf = true ∧ s.ctrl &&& ~~~0x3 = 0 ∧ s.dmapOffset &&& 0xFFF = 0 ∧ s.mmapBase &&& 0x7 = 0
        ∧ s.addrWidths &&& ~~~0xFFFF = 0 ∧ s.arena.base ≤ s.arena.cursor ∧ s.arena.cursor ≤ s.arena.limit)
      ∧ ((s.arenaValid = true → s.lifecycle = .uninit)
        ∧ s.bitmap.bytes.toNat = (s.bitmap.frameCount.toNat + 7) / 8 ∧ s.bitmap.frameCount.toNat ≤ 2 ^ 53
        ∧ s.bitmap.base.toNat + s.bitmap.bytes.toNat ≤ s.arena.cursor.toNat
        ∧ (s.lifecycle = .uninit → s.halted = false → s.bitmap = { base := 0, bytes := 0, frameCount := 0 })
        ∧ s.halted = s.fault.code.isSome)
      ∧ (walkerPos s.walker).tbl1 &&& ~~~0x000FFFFFFFFFF000 = 0 ∧ (walkerPos s.walker).tbl2 &&& ~~~0x000FFFFFFFFFF000 = 0
        ∧ (walkerPos s.walker).tbl3 &&& ~~~0x000FFFFFFFFFF000 = 0
        ∧ (walkerPos s.walker).tbl4 &&& ~~~0x000FFFFFFFFFF000 = 0 ∧ pathOk s.walker = true) : s.Inv := by
  obtain ⟨⟨h1, h2, h3, h4, h5, h6, h7⟩, ⟨h8, h9, h10, h11, h12, h13⟩, h14, h15, h16, h17, h18⟩ := h
  exact ⟨h1, h2, h3, h4, h5, ⟨h6, h7⟩, h8, h9, h10, h11, h12, h13, fun l => by cases l <;> assumption,
    fun l p e => onPath_of (e ▸ h18)⟩

/-- A result is a next state with a property that can be decided. -/
def isNext (r : Result) (P : State → Bool) : Bool :=
  match r with
  | .next t => P t
  | .fault _ => false
  | .refused _ => false

theorem next_of {r : Result} {P : State → Bool} (h : isNext r P = true) : ∃ t, r = .next t ∧ P t = true := by
  cases r
  · exact ⟨_, rfl, h⟩
  · cases h
  · cases h

/-- V40's state in a lifecycle state, with operands and a bitmap byte. -/
def v40In (lc : Lifecycle) (a : Quad) (b : Byte) : State :=
  { v40 with lifecycle := lc, args := a, mem := { cells := [(0, b)] } }

/-- A halted state. -/
def stopped (a : Quad) : State :=
  { State.reset with
    args := a, halted := true, fault := { code := some .busError, info0 := 0, info1 := 8, info2 := 0 } }

/-- A request with the illegal word 7. -/
def badRequest : Request := { cmd := 7, args := ops 1 2 3 4, answers := [] }

theorem test_hyp_IllegalWords : ({ State.reset with inputs := [.command badRequest] } : State).inputs
      = .command badRequest :: [] ∧ decode badRequest.cmd = .error .unassignedOp := by decide +kernel
theorem test_hyp_StepRunsDecoded :
    ({ State.reset with inputs := [.command { badRequest with cmd := 0x08 }] } : State).inputs
      = .command { badRequest with cmd := 0x08 } :: [] ∧ decode (0x08 : BitVec 32) = .ok .bitx
    ∧ decode (BitVec.ofNat 32 0x301) = .ok .pteNewL4 := by decide +kernel
theorem test_hyp_ResetResult : ({ State.reset with inputs := [.resetLine] } : State).inputs = .resetLine :: []
    ∧ (0x08, 2) ∈ State.reset.registers ∧ (0x24, 0) ∈ State.reset.registers := by decide +kernel
/-- A store next to the bitmap byte of V40. -/
theorem test_hyp_AgentStore : ({ v40 with inputs := [.store 1 5] } : State).inputs = .store 1 5 :: []
    ∧ ({ v40 with inputs := [.store 1 5] } : State).Inv ∧ v40.lifecycle ≠ .uninit ∧ v40.storeRespects (.store 1 5)
    ∧ 7 < 8 * v40.bitmap.bytes.toNat := by
  refine ⟨rfl, inv_of (by decide +kernel), by decide +kernel, ?_, by decide +kernel⟩
  rintro ⟨_, k, hk, he⟩
  obtain rfl : k = 0 := by
    have : k < 1 := hk
    omega
  exact absurd he (by decide +kernel)

/-! The codec and the bit ranges: `halted = false`, and each clause at the ends of its range. -/

theorem test_hyp_codec : State.reset.halted = false ∧ phys39.halted = false := by decide +kernel
/-- The reset state with the low byte of ADDR_WIDTHS at a value. -/
def physOf (n : Nat) : State := { State.reset with addrWidths := BitVec.ofNat 64 n }

theorem test_hyp_PteRsvdResult :
    ((physOf 13).halted = false ∧ 13 ≤ (physOf 13).physBits ∧ (physOf 13).physBits ≤ 52)
    ∧ (13 ≤ (physOf 52).physBits ∧ (physOf 52).physBits ≤ 52)
    ∧ ¬ (13 ≤ (physOf 12).physBits ∧ (physOf 12).physBits ≤ 52)
    ∧ ¬ (13 ≤ (physOf 53).physBits ∧ (physOf 53).physBits ≤ 52) := by decide +kernel

/-- The hypotheses of CodecRoundTrip for a level and a flag word. -/
def flagsFit (l : Level) (f : Word) : Prop := ∀ n, n < 64 → f.getLsbD n = true → isFlagBit l f n

/-- At every level, with every flag the level has. -/
theorem test_hyp_CodecRoundTrip : State.reset.halted = false
    ∧ (0x000FFFFFFFFFF000 : Word) &&& ~~~0x000FFFFFFFFFF000 = 0
    ∧ flagsFit .l1 0x800000000000017F ∧ flagsFit .l2 0xFF ∧ flagsFit .l3 0xFF ∧ flagsFit .l4 0x3F := by
  refine ⟨rfl, by decide +kernel, ?_, ?_, ?_, ?_⟩ <;>
    · unfold flagsFit isFlagBit
      decide +kernel
theorem test_hyp_BitxBiti : (∀ p ∈ [(0, 0), (0, 64), (64, 64), (5, 5), (63, 64)], p.1 ≤ p.2 ∧ p.2 ≤ 64)
    ∧ ∀ p ∈ [(0, 65), (10, 8), (65, 65)], ¬ (p.1 ≤ p.2 ∧ p.2 ≤ 64) := by decide +kernel

/-! The arena. -/

theorem no_max {s : State} (h : s.config.mmapMax = none) : ¬ s.overMax := by
  rintro ⟨m, hm, _⟩
  rw [h] at hm
  cases hm

theorem three_no_pow : ¬ ∃ j, (ops 1 3 0 0).v1.toNat = 2 ^ j := by
  rintro ⟨j, hj⟩
  have h3 : (ops 1 3 0 0).v1.toNat = 3 := by decide +kernel
  rcases j with _ | _ | j
  · omega
  · omega
  · rw [h3, Nat.pow_succ, Nat.pow_succ] at hj
    omega

/-- The map of V40 with the operands of ARENA_FIND. -/
def findIn (a : Quad) : State := { m3 with args := a }

theorem test_hyp_ArenaFindResult_refusals :
    (findIn (ops 1 1 0 0)).halted = false ∧ (v40 : State).lifecycle ≠ .uninit
    ∧ (withArena m3 0 1 0).arenaValid = true
    ∧ (({ m3 with config := { mmapMax := some 3, portCanError := false } } : State).overMax)
    ∧ ¬ ({ m3 with config := { mmapMax := some 4, portCanError := false } } : State).overMax
    ∧ ¬ (findIn (ops 1 3 0 0)).overMax ∧ ¬ ∃ j, (findIn (ops 1 3 0 0)).args.v1.toNat = 2 ^ j := by
  refine ⟨rfl, by decide +kernel, rfl, ⟨3, rfl, by decide +kernel⟩, ?_, no_max rfl, three_no_pow⟩
  rintro ⟨m, hm, h⟩
  cases hm
  exact absurd h (by decide +kernel)
/-- Entry 0 of V40's map fits 0x6000 bytes exactly. -/
theorem test_hyp_ArenaFindResult_fits :
    (findIn (ops 0x6000 1 0 0)).lifecycle = .uninit ∧ (findIn (ops 0x6000 1 0 0)).arenaValid = false
    ∧ ¬ (findIn (ops 0x6000 1 0 0)).overMax ∧ (findIn (ops 0x6000 1 0 0)).args.v1.toNat = 2 ^ 0
    ∧ (findIn (ops 0x6000 1 0 0)).quiet ∧ 0 < (findIn (ops 0x6000 1 0 0)).mmapCount.toNat
    ∧ (findIn (ops 0x6000 1 0 0)).arenaFits 0 0
    ∧ ∀ j, j < 0 → ∀ b, ¬ (findIn (ops 0x6000 1 0 0)).arenaFits j b := by
  refine ⟨rfl, rfl, no_max rfl, by decide +kernel, rfl, by decide +kernel, ?_, fun j hj => absurd hj (by omega)⟩
  unfold State.arenaFits alignsUpTo
  decide +kernel
/-- One byte more fits no entry: entry 0 is too short, the others are not usable. -/
theorem test_hyp_ArenaFindResult_none :
    (findIn (ops 0x6001 1 0 0)).args.v1.toNat = 2 ^ 0
    ∧ ∀ k, k < (findIn (ops 0x6001 1 0 0)).mmapCount.toNat → ∀ b, ¬ (findIn (ops 0x6001 1 0 0)).arenaFits k b := by
  refine ⟨by decide +kernel, fun k hk b hb => ?_⟩
  have hk : k < 4 := hk
  obtain ⟨ht, ⟨_, ha, _⟩, hs, _⟩ := hb
  by_cases h0 : k = 0
  · subst h0
    have hl : ((findIn (ops 0x6001 1 0 0)).mapEntry 0).length.toNat = 0x6000 := by decide +kernel
    have hz : (findIn (ops 0x6001 1 0 0)).args.v0.toNat = 0x6001 := by decide +kernel
    omega
  · have key : ∀ k, k < 4 → k ≠ 0 →
        ((findIn (ops 0x6001 1 0 0)).mapEntry k).type ≠ (findIn (ops 0x6001 1 0 0)).usableType := by decide +kernel
    exact key k hk h0 ht
/-- W7's three arenas and operands: each case of ARENA_ALLOC. -/
theorem test_hyp_ArenaAllocResult :
    (withArena .reset 0x1400 0x1800 0x1400).lifecycle = .uninit ∧ (withArena .reset 0x1400 0x1800 0x1400).arenaValid = true
    ∧ (v40 : State).arenaValid = false ∧ (¬ ∃ j, (ops 1 3 0 0).v1.toNat = 2 ^ j)
    ∧ (ops 1 0x1000 0 0).v1.toNat = 2 ^ 12 ∧ alignsUpTo 0x1400 0x1000 0x2000 ∧ 0x1800 < 0x2000
    ∧ alignsUpTo 0x1C00 0x1000 0x2000 ∧ ¬ 0x2000 < 0x2000 ∧ 0x2000 < 0x2000 + 1
    ∧ alignsUpTo 0x2000 0x1000 0x2000 ∧ ¬ 0x2400 < 0x2000 + 0x400 := by
  refine ⟨rfl, rfl, rfl, three_no_pow, by decide +kernel, ?_⟩
  unfold alignsUpTo
  decide +kernel
/-- An alignment whose multiple lies past 2^64. -/
theorem test_hyp_ArenaAllocResult_wrap : (ops 1 0x8000000000000000 0 0).v1.toNat = 2 ^ 63
    ∧ alignsUpTo (2 ^ 63 + 1) (2 ^ 63) (2 ^ 64) ∧ 2 ^ 64 - 1 < 2 ^ 64 := by
  unfold alignsUpTo
  decide +kernel
theorem test_hyp_ArenaOnlyBumps : (withArena .reset 0x1400 0x1800 0x1400).arenaValid = true
    ∧ ∃ t, exec .arenaAlloc { withArena .reset 0x1400 0x1800 0x1400 with args := ops 0x10 1 0 0 } = .next t
      ∧ decide (t.status = .ok) = true := ⟨rfl, next_of (by decide +kernel)⟩

/-! The bitmap builder: the map of V42, with the arena of ARENA_FIND 0x10, 1 and one of a single byte. -/

theorem v42_span (s : State) (h : s = v42 ∨ s = withArena v42 0 1 0) : s.spanIs 0xA000 := by
  rcases h with rfl | rfl <;>
    refine ⟨fun k hk => ?_, .inr ⟨2, by decide +kernel, by decide +kernel⟩⟩ <;>
    have hk : k < 3 := hk
  · have key : ∀ k, k < 3 → (v42.mapEntry k).base.toNat + (v42.mapEntry k).length.toNat ≤ 0xA000 := by decide +kernel
    exact key k hk
  · have key : ∀ k, k < 3 → ((withArena v42 0 1 0).mapEntry k).base.toNat
        + ((withArena v42 0 1 0).mapEntry k).length.toNat ≤ 0xA000 := by decide +kernel
    exact key k hk
theorem test_hyp_BitmapBuildResult : v42.halted = false ∧ v42.lifecycle = .uninit ∧ v42.arenaValid = true
    ∧ ¬ v42.overMax ∧ v42.quiet ∧ v42.mem.wf = true ∧ v42.spanIs 0xA000 ∧ 10 = 0xA000 / 4096 ∧ 2 = (10 + 7) / 8
    ∧ v42.arena.cursor.toNat + 2 ≤ v42.arena.limit.toNat :=
  ⟨rfl, rfl, rfl, no_max rfl, rfl, by decide +kernel, v42_span _ (.inl rfl), by decide +kernel, by decide +kernel, by decide +kernel⟩
theorem test_hyp_BitmapBuildRefusals : (v40 : State).lifecycle ≠ .uninit ∧ m3.arenaValid = false
    ∧ ({ v42 with config := { mmapMax := some 2, portCanError := false } } : State).overMax
    ∧ (withArena v42 0 1 0).spanIs 0xA000 ∧ 2 = (0xA000 / 4096 + 7) / 8
    ∧ (withArena v42 0 1 0).arena.limit.toNat < (withArena v42 0 1 0).arena.cursor.toNat + 2 :=
  ⟨by decide +kernel, rfl, ⟨2, rfl, by decide +kernel⟩, v42_span _ (.inr rfl), by decide +kernel, by decide +kernel⟩
/-- Entry 1 of V42's map ends in the middle of frame 4. -/
theorem test_hyp_BuildLaws : v42.Inv ∧ v42.halted = false ∧ v42.quiet ∧ v42.reserveSelf = false
    ∧ (∃ t, exec .bitmapBuild v42 = .next t ∧ decide (t.status = .ok ∧ 4 < t.bitmap.frameCount.toNat) = true)
    ∧ 1 < v42.mmapCount.toNat ∧ (v42.mapEntry 1).type ≠ v42.usableType ∧ 0 < (v42.mapEntry 1).length.toNat
    ∧ 4096 * 4 < (v42.mapEntry 1).base.toNat + (v42.mapEntry 1).length.toNat
    ∧ (v42.mapEntry 1).base.toNat + (v42.mapEntry 1).length.toNat < 4096 * (4 + 1) := by
  refine ⟨inv_of (by decide +kernel), rfl, rfl, by decide +kernel, next_of ?_, ?_⟩ <;> decide +kernel

/-! The page walker. -/

/-- A CR3 value without bits 51:40 passes the check of R206 with PHYS_BITS = 40. -/
theorem cr3_free {s : State} {c : Word} (hp : s.physBits = 40)
    (hc : ∀ n, n ≤ 51 → 40 ≤ n → c.getLsbD n = false) : ¬ s.rootReserved c := by
  rintro ⟨n, h1, h2, h3⟩
  rw [hc n h2 (by omega)] at h3
  cases h3

theorem test_hyp_WalkStartResult : (hierarchy []).halted = false
    ∧ ¬ (13 ≤ (physOf 12).physBits ∧ (physOf 12).physBits ≤ 52)
    ∧ ¬ (13 ≤ (physOf 53).physBits ∧ (physOf 53).physBits ≤ 52)
    ∧ (hierarchy []).physBits = 40 ∧ (hierarchy []).rootReserved 0x10000000000
    ∧ (hierarchy []).rootReserved 0x8000000000000 ∧ ¬ (hierarchy []).rootReserved 0xFFF000FFFFFFFFFF := by
  refine ⟨rfl, by decide +kernel, by decide +kernel, by decide +kernel, ⟨40, ?_⟩, ⟨51, ?_⟩, cr3_free ?_ ?_⟩ <;> decide +kernel
theorem test_hyp_WalkNextOutsideWalk : State.reset.walker = .idle
    ∧ (at4321 .l4 0 0 0 0 .reset).walker ≠ .idle
    ∧ ¬ (13 ≤ (at4321 .l4 0 0 0 0 .reset).physBits ∧ (at4321 .l4 0 0 0 0 .reset).physBits ≤ 52)
    ∧ ({ hierarchy [] with walker := .done .zero } : State).walker = .done .zero
    ∧ 13 ≤ (hierarchy []).physBits ∧ (hierarchy []).physBits ≤ 52 := by decide +kernel

/-- A walker at a level over a hierarchy whose entry there is `e`. -/
def visiting (l : Level) (i : Fin 513) (e : Nat) : State :=
  at4321 l i i i i (hierarchy [((match l with | .l4 => 0x1000 | .l3 => 0x2000 | .l2 => 0x3000 | .l1 => 0x4000) + 8 * i.val, e)])

/-- The position of `visiting`. -/
def posAt (i : Fin 513) : WalkPos :=
  { tbl4 := 0x1000, tbl3 := 0x2000, tbl2 := 0x3000, tbl1 := 0x4000, idx4 := i, idx3 := i, idx2 := i, idx1 := i }

/-- The entry `visiting` places is the entry read there, at every level and at the large-page levels. -/
def entriesMet (i : Fin 513) : Prop :=
  (∀ l ∈ [Level.l1, .l2, .l3, .l4], ((posAt i).idx l).val < 512
      ∧ ((visiting l i 0x5002).tables.at ((posAt i).tbl l) ((posAt i).idx l).val).getLsbD 0 = false
      ∧ (visiting l i 0x10000005001).tables.at ((posAt i).tbl l) ((posAt i).idx l).val = 0x10000005001
      ∧ violation l 0x10000005001 (visiting l i 0x10000005001).physBits (visiting l i 0x10000005001).nxe ≠ 0
      ∧ (visiting l i 0x5001).tables.at ((posAt i).tbl l) ((posAt i).idx l).val = 0x5001
      ∧ (0x5001 : Word).getLsbD 0 = true ∧ (0x5001 : Word).getLsbD 7 = false
      ∧ violation l 0x5001 (visiting l i 0x5001).physBits (visiting l i 0x5001).nxe = 0)
    ∧ ∀ l ∈ [Level.l2, .l3], (visiting l i 0x40000083).tables.at ((posAt i).tbl l) ((posAt i).idx l).val = 0x40000083
      ∧ (0x40000083 : Word).getLsbD 0 = true ∧ (0x40000083 : Word).getLsbD 7 = true
      ∧ violation l 0x40000083 (visiting l i 0x40000083).physBits (visiting l i 0x40000083).nxe = 0

/-- Each clause of WalkNextIterations: an exhausted table at the top and below it, and at index 0 and 511 an absent
entry, a reserved bit, a 4 KiB page, a 2 MiB page, a 1 GiB page and a pointer at each level that has one. -/
theorem test_hyp_WalkNextIterations_state (l : Level) (i : Fin 513) (e : Nat) : (visiting l i e).halted = false
    ∧ (visiting l i e).quiet ∧ 13 ≤ (visiting l i e).physBits ∧ (visiting l i e).physBits ≤ 52
    ∧ (visiting l i e).walker = .active l (posAt i) :=
  ⟨rfl, rfl, (by decide +kernel : 13 ≤ (hierarchy []).physBits), (by decide +kernel : (hierarchy []).physBits ≤ 52), rfl⟩
theorem test_hyp_WalkNextIterations_pop : (∀ l, ((posAt 512).idx l).val = 512)
    ∧ levelNumber .l4 = levelNumber .l3 + 1 ∧ levelNumber .l3 = levelNumber .l2 + 1
    ∧ levelNumber .l2 = levelNumber .l1 + 1 := ⟨fun l => by cases l <;> rfl, rfl, rfl, rfl⟩
theorem test_hyp_WalkNextIterations_entries : entriesMet 0 ∧ entriesMet 511 := by
  unfold entriesMet
  decide +kernel
/-- The record clauses of WalkNextIterations, at index 0 and 511 of every table. -/
theorem test_hyp_WalkNextIterations_path : (posAt 0).onPath .l1 ∧ (posAt 0).onPath .l2 ∧ (posAt 511).onPath .l1
    ∧ (posAt 511).onPath .l2 := by
  refine ⟨onPath_of ?_, onPath_of ?_, onPath_of ?_, onPath_of ?_⟩ <;> decide +kernel
/-- Ahead of the last entry of every table stands one mapping, a reserved bit or a 1 GiB page; past it, nothing. -/
theorem test_hyp_WalkNextTakesTheNext :
    (posAt 511).onPath .l1 ∧ (posAt 511).onPath .l3 ∧ (posAt 512).onPath .l4
    ∧ (visiting .l1 511 0x7001).tables.ahead .l1 (posAt 511)
      = { records := [{ va := 0xFFFFFFFFFFFFF000, pa := 0x7000, size := .kib4 }], stop := none }
    ∧ (visiting .l1 511 0x10000005001).tables.ahead .l1 (posAt 511)
      = { records := [], stop := some { code := .reservedBit, info0 := 1, info1 := 0x4FF8, info2 := 0x10000005001 } }
    ∧ (visiting .l3 511 0x40000083).tables.ahead .l3 (posAt 511)
      = { records := [], stop := some { code := .unsupportedPageSize, info0 := 3, info1 := 0x2FF8, info2 := 0x40000083 } }
    ∧ (visiting .l4 512 0).tables.ahead .l4 (posAt 512) = { records := [], stop := none } := by
  refine ⟨onPath_of ?_, onPath_of ?_, onPath_of ?_, ?_⟩ <;> decide +kernel
/-- R211: the indices in their places, and bit 47 extended. -/
theorem test_canonicalAddress : canonicalAddress 1 0 0 0 = 0x8000000000 ∧ canonicalAddress 0 1 0 0 = 0x40000000
    ∧ canonicalAddress 0 0 1 0 = 0x200000 ∧ canonicalAddress 0 0 0 1 = 0x1000
    ∧ canonicalAddress 256 0 0 0 = 0xFFFF800000000000 ∧ canonicalAddress 511 511 511 511 = 0xFFFFFFFFFFFFF000 := by
  decide +kernel

theorem selfWalk_absent {i : Nat} (h0 : 0 < i) (h : i < 512) : entryPresent (selfWalk.tables.at 0x2000 i) = false := by
  have key : ∀ i, i < 512 → 0 < i →
      (selfWalk.mem.read (selfWalk.phys (0x2000 + BitVec.ofNat 64 (8 * i)))).getLsbD 0 = false := by decide +kernel
  exact (entryPresent_readWord _ _).trans (key i h h0)

theorem selfWalk_first : selfWalk.tables.at 0x2000 0 = 0x2001 := by decide +kernel

/-- The one mapping of `selfWalk`. -/
theorem selfWalk_mappings : selfWalk.tables.mappings 0x2000
    = { records := [{ va := 0, pa := 0x2000, size := .kib4 }], stop := none } := by
  have hr : rootTable 0x2000 = 0x2000 := by decide +kernel
  have ha : (0x2001 : Word) &&& addrMask = 0x2000 := by decide +kernel
  have hf : ∀ l, selfWalk.tables.faulty l 0x2001 = false := fun l => by cases l <;> decide +kernel
  have hp : entryPresent 0x2001 = true := by decide +kernel
  have hg : entryLarge 0x2001 = false := by decide +kernel
  unfold TableView.mappings
  rw [hr, gather_first (fun i h0 h => by simp only [TableView.mapL4, selfWalk_absent h0 h, Bool.not_false, if_true])]
  simp only [TableView.mapL4, selfWalk_first, hp, hf, ha, Bool.not_true, Bool.false_eq_true, if_false]
  rw [gather_first (fun i h0 h => by simp only [TableView.mapL3, selfWalk_absent h0 h, Bool.not_false, if_true])]
  simp only [TableView.mapL3, selfWalk_first, hp, hf, hg, ha, Bool.not_true, Bool.false_eq_true, if_false]
  rw [gather_first (fun i h0 h => by simp only [TableView.mapL2, selfWalk_absent h0 h, Bool.not_false, if_true])]
  simp only [TableView.mapL2, selfWalk_first, hp, hf, hg, ha, Bool.not_true, Bool.false_eq_true, if_false]
  rw [gather_first (fun i h0 h => by simp only [TableView.mapL1, selfWalk_absent h0 h, Bool.not_false, if_true])]
  simp only [TableView.mapL1, selfWalk_first, hp, hf, Bool.not_true, Bool.false_eq_true, if_false]
  decide +kernel
theorem selfWalk_root : ¬ selfWalk.rootReserved selfWalk.args.v0 := cr3_free (by decide +kernel) (by decide +kernel)
theorem selfWalk_inv : selfWalk.Inv := inv_of (by decide +kernel)

/-- A state whose tables are all the page at 0x2000, and whose bitmap is the byte at 0. -/
theorem apart_of {s : State} (hr : rootTable s.args.v0 = 0x2000) (hd : s.dmapOffset = 0) (hb : s.bitmapAddr 0 = 0)
    (hn : s.bitmap.bytes.toNat = 1) (key : ∀ i, i < 512 → entryPresent (s.tables.at 0x2000 i) = true →
      s.tables.at 0x2000 i &&& addrMask = 0x2000) : s.tablesApart s.args.v0 := by
  refine ⟨fun _ a => a = 0x2000, ⟨hr, ?_, ?_, ?_⟩, ?_⟩
  · rintro a i rfl hi hp
    exact key i hi hp
  · rintro a i rfl hi hp
    exact key i hi hp
  · rintro a i rfl hi hp _
    exact key i hi hp
  · rintro l a rfl off ho k hk he
    obtain rfl : k = 0 := by omega
    have h2 : (0x2000 : Word).toNat = 0x2000 := rfl
    have h3 : (0 : Word).toNat = 0 := rfl
    have h := congrArg BitVec.toNat he
    rw [hb] at h
    unfold State.phys at h
    rw [hd] at h
    simp only [BitVec.toNat_add, BitVec.toNat_ofNat, h2, h3] at h
    omega

/-- Every table of `selfWalk` is the page at 0x2000, and the bitmap is the byte at 0. -/
theorem selfWalk_apart : selfWalk.tablesApart selfWalk.args.v0 := by
  refine apart_of (by decide +kernel) rfl (by decide +kernel) (by decide +kernel) fun i hi hp => ?_
  by_cases h0 : 0 < i
  · rw [selfWalk_absent h0 hi] at hp
    cases hp
  · obtain rfl : i = 0 := by omega
    rw [selfWalk_first]
    decide +kernel

/-- Frame 2 is mapped once before the fault. -/
theorem stopWalk_mappings : stopWalk.tables.mappings 0x2000
    = { records := [{ va := 0, pa := 0x2000, size := .kib4 }],
        stop := some { code := .reservedBit, info0 := 1, info1 := 0x2008, info2 := 0x8000000000002001 } } := by
  decide +kernel
theorem stopWalk_absent (i : Nat) (h2 : 1 < i) (h : i < 512) : entryPresent (stopWalk.tables.at 0x2000 i) = false := by
  have key : ∀ i, i < 512 → 1 < i →
      (stopWalk.mem.read (stopWalk.phys (0x2000 + BitVec.ofNat 64 (8 * i)))).getLsbD 0 = false := by decide +kernel
  exact (entryPresent_readWord _ _).trans (key i h h2)
theorem stopWalk_apart : stopWalk.tablesApart stopWalk.args.v0 := by
  refine apart_of (by decide +kernel) rfl (by decide +kernel) (by decide +kernel) fun i hi hp => ?_
  by_cases h0 : 1 < i
  · rw [stopWalk_absent i h0 hi] at hp
    cases hp
  · have key : ∀ i, i < 2 → stopWalk.tables.at 0x2000 i &&& addrMask = 0x2000 := by decide +kernel
    exact key i (by omega)
theorem stopWalk_root : ¬ stopWalk.rootReserved stopWalk.args.v0 := cr3_free (by decide +kernel) (by decide +kernel)

theorem test_hyp_WalkEnumerates : (selfWalk.halted = false ∧ selfWalk.quiet ∧ 13 ≤ selfWalk.physBits
      ∧ selfWalk.physBits ≤ 52 ∧ ¬ selfWalk.rootReserved selfWalk.args.v0)
    ∧ stopWalk.halted = false ∧ stopWalk.quiet ∧ ¬ stopWalk.rootReserved stopWalk.args.v0 :=
  ⟨⟨rfl, rfl, by decide +kernel, by decide +kernel, selfWalk_root⟩, rfl, rfl, stopWalk_root⟩
theorem test_hyp_RecordsAreCanonical : ∃ t, exec .walkNext (visiting .l1 511 0x7001) = .next t
    ∧ decide (t.res.v3 ≠ 0) = true := next_of (by decide +kernel)

/-- The four outcomes of WALK_CHECK: PHYS_BITS out of range, a reserved bit of CR3, the end, a stop. -/
theorem test_hyp_WalkCheckCounts : selfWalk.halted = false ∧ selfWalk.lifecycle ≠ .uninit
    ∧ ¬ (13 ≤ ({ selfWalk with addrWidths := 53 } : State).physBits
        ∧ ({ selfWalk with addrWidths := 53 } : State).physBits ≤ 52)
    ∧ selfWalk.rootReserved 0x10000000000
    ∧ (13 ≤ selfWalk.physBits ∧ selfWalk.physBits ≤ 52 ∧ ¬ selfWalk.rootReserved selfWalk.args.v0 ∧ selfWalk.quiet
      ∧ (selfWalk.tables.mappings selfWalk.args.v0).stop = none)
    ∧ (13 ≤ stopWalk.physBits ∧ stopWalk.physBits ≤ 52 ∧ ¬ stopWalk.rootReserved stopWalk.args.v0 ∧ stopWalk.quiet
      ∧ (stopWalk.tables.mappings stopWalk.args.v0).stop
        = some { code := .reservedBit, info0 := 1, info1 := 0x2008, info2 := 0x8000000000002001 }) :=
  ⟨rfl, by decide +kernel, by decide +kernel, ⟨40, by decide +kernel⟩,
    ⟨by decide +kernel, by decide +kernel, selfWalk_root, rfl, congrArg Enumeration.stop selfWalk_mappings⟩,
    by decide +kernel, by decide +kernel, stopWalk_root, rfl, congrArg Enumeration.stop stopWalk_mappings⟩
/-- Frame 2 is mapped and free; frame 0 is free and not mapped; with and without a stop. -/
theorem test_hyp_WalkMarkMarks : (selfWalk.Inv ∧ selfWalk.halted = false
      ∧ (selfWalk.lifecycle = .built ∨ selfWalk.lifecycle = .inuse) ∧ selfWalk.quiet
      ∧ ¬ selfWalk.rootReserved selfWalk.args.v0 ∧ selfWalk.tablesApart selfWalk.args.v0)
    ∧ stopWalk.Inv ∧ stopWalk.halted = false ∧ (stopWalk.lifecycle = .built ∨ stopWalk.lifecycle = .inuse)
    ∧ stopWalk.quiet ∧ ¬ stopWalk.rootReserved stopWalk.args.v0 ∧ stopWalk.tablesApart stopWalk.args.v0 :=
  ⟨⟨selfWalk_inv, rfl, .inl rfl, rfl, selfWalk_root, selfWalk_apart⟩,
    inv_of (by decide +kernel), rfl, .inl rfl, rfl, stopWalk_root, stopWalk_apart⟩

/-- The disjointness of an empty table and the bitmap. -/
theorem emptyWalk_absent (i : Nat) (h : i < 512) : entryPresent (emptyWalk.tables.at 0x2000 i) = false := by
  have key : ∀ i, i < 512 →
      (emptyWalk.mem.read (emptyWalk.phys (0x2000 + BitVec.ofNat 64 (8 * i)))).getLsbD 0 = false := by decide +kernel
  exact (entryPresent_readWord _ _).trans (key i h)
theorem emptyWalk_mappings : emptyWalk.tables.mappings emptyWalk.args.v0 = .nothing := by
  have hr : rootTable emptyWalk.args.v0 = 0x2000 := by decide +kernel
  unfold TableView.mappings
  rw [hr]
  refine gather_nil (fun i hi => ?_)
  have h := emptyWalk_absent i (by simp [indicesFrom] at hi; omega)
  simp only [TableView.mapL4, h, Bool.not_false, if_true]
theorem emptyWalk_apart : emptyWalk.tablesApart emptyWalk.args.v0 := by
  refine ⟨fun l a => l = .l4 ∧ a = 0x2000, ⟨⟨rfl, by decide +kernel⟩, ?_, ?_, ?_⟩, ?_⟩
  · rintro a i ⟨_, rfl⟩ hi hp
    rw [emptyWalk_absent i hi] at hp
    cases hp
  · rintro a i ⟨h, _⟩
    cases h
  · rintro a i ⟨h, _⟩
    cases h
  · rintro l a ⟨_, rfl⟩ off ho k hk he
    obtain rfl : k = 0 := by
      have : k < 1 := hk
      omega
    have h0 : emptyWalk.bitmapAddr 0 = 0 := by decide +kernel
    have h := congrArg BitVec.toNat he
    rw [h0] at h
    unfold State.phys at h
    rw [show emptyWalk.dmapOffset = 0 from rfl] at h
    simp only [BitVec.toNat_add, BitVec.toNat_ofNat, show (0x2000 : Word).toNat = 0x2000 from rfl,
      show (0 : Word).toNat = 0 from rfl] at h
    omega
theorem emptyWalk_whole (visit : Nat → Tally → State → Access Tally) :
    ∃ t, walkWhole visit emptyWalk = .next t ∧ t.status = .ok ∧ t.res = .zero := by
  have hr : rootTable emptyWalk.args.v0 = 0x2000 := by decide +kernel
  obtain ⟨q, hq⟩ := walkWhole_absent visit (s := emptyWalk) rfl (by decide +kernel) (by decide +kernel)
    (by rw [hr]; exact emptyWalk_absent)
  exact ⟨_, hq, rfl, rfl⟩
theorem test_hyp_CheckAfterMark : emptyWalk.Inv ∧ emptyWalk.quiet ∧ emptyWalk.tablesApart emptyWalk.args.v0
    ∧ ∃ t, exec .walkMark emptyWalk = .next t ∧ t.status = .ok ∧ t.res = .zero :=
  ⟨inv_of (by decide +kernel), rfl, emptyWalk_apart, emptyWalk_whole markFrame⟩
theorem test_hyp_WalkIsBounded : ∃ t, exec .walkMark emptyWalk = .next t ∧ t.status = .ok ∧ t.res = .zero :=
  emptyWalk_whole markFrame
theorem test_hyp_CheckZeroMeansCovered : emptyWalk.quiet ∧ (emptyWalk.tables.mappings emptyWalk.args.v0).records = []
    ∧ ∃ t, exec .walkCheck emptyWalk = .next t ∧ t.status = .ok ∧ t.res = .zero :=
  ⟨rfl, congrArg Enumeration.records emptyWalk_mappings, emptyWalk_whole checkFrame⟩

/-! The frame allocator. -/

theorem test_hyp_FrameAllocResult : (v40In .frozen (ops 0 0 0 0) 0xFA).Inv ∧ (v40In .built (ops 0 0 0 0) 0xFB).Inv
    ∧ (v40In .built (ops 0 0 0 0) 0xFB).quiet ∧ 2 < (v40In .built (ops 0 0 0 0) 0xFB).bitmap.frameCount.toNat
    ∧ (v40In .built (ops 0 0 0 0) 0xFB).frameBit 2 = false
    ∧ (∀ g, g < 2 → (v40In .built (ops 0 0 0 0) 0xFB).frameBit g = true)
    ∧ (v40In .inuse (ops 0 0 0 0) 0xDF).frameBit 5 = false
    ∧ (∀ g, g < 5 → (v40In .inuse (ops 0 0 0 0) 0xDF).frameBit g = true)
    ∧ ∀ f, f < 6 → (v40In .inuse (ops 0 0 0 0) 0xFF).frameBit f = true := by
  refine ⟨inv_of ?_, inv_of ?_, rfl, ?_⟩ <;> decide +kernel
theorem test_hyp_AllocationsIncrease : v40.Inv ∧ v40.quiet
    ∧ (∃ t, exec .frameAlloc v40 = .next t ∧ decide (t.status = .ok) = true)
    ∧ ∃ u, exec .frameAlloc (after (exec .frameAlloc v40)) = .next u ∧ decide (u.status = .ok) = true :=
  ⟨inv_of (by decide +kernel), rfl, next_of (by decide +kernel), next_of (by decide +kernel)⟩

/-- 513 tracked frames, so that a 2 MiB page fits at 0 and no other. -/
def big : State :=
  { v40 with
    arena := { base := 0, limit := 0x41, cursor := 0x41 }, bitmap := { base := 0, bytes := 0x41, frameCount := 0x201 } }

theorem test_hyp_FrameFreeResult : v40.Inv ∧ (ops 0 2 0 0).v1.toNat > 1
    ∧ (ops 0x1FFF 0 0 0).v0.toNat % (4096 * 1) ≠ 0 ∧ (ops 0x1FF000 1 0 0).v0.toNat % (4096 * 512) ≠ 0
    ∧ (ops 0x6000 0 0 0).v0.toNat % (4096 * 1) = 0
    ∧ v40.bitmap.frameCount.toNat < (ops 0x6000 0 0 0).v0.toNat / 4096 + 1
    ∧ (ops 0x5000 0 0 0).v0.toNat / 4096 + 1 ≤ v40.bitmap.frameCount.toNat ∧ v40.quiet
    ∧ big.Inv ∧ (ops 0 1 0 0).v0.toNat % (4096 * 512) = 0
    ∧ (ops 0 1 0 0).v0.toNat / 4096 + 512 ≤ big.bitmap.frameCount.toNat
    ∧ big.bitmap.frameCount.toNat < (ops 0x200000 1 0 0).v0.toNat / 4096 + 512 := by
  have h1 : v40.Inv := inv_of (by decide +kernel)
  have h2 : big.Inv := inv_of (by decide +kernel)
  exact ⟨h1, by decide +kernel, by decide +kernel, by decide +kernel, by decide +kernel, by decide +kernel,
    by decide +kernel, rfl, h2, by decide +kernel⟩
theorem test_hyp_FrameTestResult : State.reset.lifecycle = .uninit ∧ v40.lifecycle ≠ .uninit
    ∧ v40.bitmap.frameCount.toNat ≤ (ops 6 0 0 0).v0.toNat ∧ (ops 5 0 0 0).v0.toNat < v40.bitmap.frameCount.toNat
    ∧ v40.quiet := ⟨rfl, by decide +kernel, by decide +kernel, by decide +kernel, rfl⟩
theorem test_hyp_FreeCountResult : State.reset.Inv ∧ State.reset.lifecycle = .uninit ∧ v40.Inv ∧ v40.halted = false
    ∧ v40.lifecycle ≠ .uninit ∧ v40.quiet :=
  ⟨inv_of (by decide +kernel), rfl, inv_of (by decide +kernel), rfl, by decide +kernel, rfl⟩
theorem test_hyp_BitmapFreezeResult : v40.halted = false ∧ (v40.lifecycle = .built ∨ v40.lifecycle = .inuse)
    ∧ (State.reset.lifecycle = .uninit ∨ State.reset.lifecycle = .frozen) := by decide +kernel
/-- The last tracked frame in both directions. -/
theorem test_hyp_AllocFreeToggle : (v40In .inuse (ops 0 0 0 0) 0xDF).Inv ∧ (v40In .inuse (ops 0 0 0 0) 0xDF).quiet
    ∧ (∃ t, exec .frameAlloc (v40In .inuse (ops 0 0 0 0) 0xDF) = .next t
        ∧ decide (t.status = .ok ∧ 4096 * t.res.v2.toNat < 2 ^ 64) = true)
    ∧ (v40In .inuse (ops 0x5000 0 0 0) 0xFF).Inv ∧ (v40In .inuse (ops 0x5000 0 0 0) 0xFF).quiet
    ∧ (ops 0x5000 0 0 0).v0.toNat = 4096 * 5 ∧ (ops 0x5000 0 0 0).v1 = 0
    ∧ (∀ g, g < 6 → (v40In .inuse (ops 0x5000 0 0 0) 0xFF).frameBit g = true)
    ∧ ∃ t, exec .frameFree (v40In .inuse (ops 0x5000 0 0 0) 0xFF) = .next t ∧ decide (t.status = .ok) = true :=
  ⟨inv_of (by decide +kernel), rfl, next_of (by decide +kernel), inv_of (by decide +kernel), rfl, by decide +kernel,
    by decide +kernel, by decide +kernel, next_of (by decide +kernel)⟩

/-! Register access and the rules over all commands. -/

theorem test_hyp_CsrReadResult : (0x00, 0) ∈ State.reset.registers ∧ (0x24, 0) ∈ State.reset.registers
    ∧ (∀ v, ((ops 0x06 0 0 0).v0.toNat, v) ∉ State.reset.registers)
    ∧ ∀ v, ((ops 0x25 0 0 0).v0.toNat, v) ∉ State.reset.registers := by
  refine ⟨by decide +kernel, by decide +kernel, ?_, ?_⟩ <;>
    · intro v h
      simp [State.registers, ops] at h
theorem test_hyp_CsrWriteResult : State.reset.halted = false ∧ State.reset.lifecycle = .uninit
    ∧ v40.lifecycle ≠ .uninit ∧ (ops 0x08 0 0 0).v0 = 0x08 ∧ (ops 0x0C 0 0 0).v0 = 0x0C ∧ (ops 0x09 0 0 0).v0 = 0x09
    ∧ (ops 0x0A 0 0 0).v0 = 0x0A ∧ (ops 0x0B 0 0 0).v0 = 0x0B ∧ (ops 0x0D 0 0 0).v0 = 0x0D
    ∧ (ops 0x00 0 0 0).v0.toNat ∈ readOnlyNumbers ∧ (ops 0x24 0 0 0).v0.toNat ∈ readOnlyNumbers := by decide +kernel
theorem test_hyp_StatusOfThePrevious : (∃ t, exec .bitx { State.reset with args := ops 0 1 0 0 } = .next t
    ∧ decide (t.status = .badRange) = true) ∧ (ops 0 0 0 0).v0 = 0 := ⟨next_of (by decide +kernel), rfl⟩
theorem test_hyp_HaltedRefusesCommands : (stopped (ops 2 0 0 0)).halted = true ∧ (2, 5) ∈ (stopped (ops 2 0 0 0)).registers
    ∧ (∃ t, exec .csrRead (stopped (ops 2 0 0 0)) = .next t ∧ decide (t.status = .ok) = true)
    ∧ ({ stopped (ops 2 0 0 0) with inputs := [.command badRequest] } : State).inputs = .command badRequest :: []
    ∧ decode badRequest.cmd = .error .unassignedOp
    ∧ ({ stopped (ops 2 0 0 0) with inputs := [.resetLine] } : State).inputs = .resetLine :: []
    ∧ decode (0xFF : BitVec 32) = .ok .reset :=
  ⟨rfl, by decide +kernel, next_of (by decide +kernel), rfl, by decide +kernel, rfl, by decide +kernel⟩
theorem test_hyp_LifecycleTable : (stopped (ops 0 0 0 0)).halted = true ∧ State.reset.halted = false
    ∧ State.reset.lifecycle = .uninit ∧ State.reset.arenaValid = false ∧ v42.arenaValid = true
    ∧ (v40In .frozen (ops 9 0 0 0) 0).lifecycle = .frozen
    ∧ ∃ t, exec .csrWrite (v40In .frozen (ops 9 0 0 0) 0) = .next t ∧ decide (t.status = .badState) = true :=
  ⟨rfl, rfl, rfl, rfl, rfl, rfl, next_of (by decide +kernel)⟩
theorem test_hyp_LifecycleMoves :
    (∃ t, exec .bitmapBuild v42 = .next t ∧ decide (t.lifecycle ≠ v42.lifecycle) = true)
    ∧ (∃ t, exec .frameAlloc v40 = .next t ∧ decide (t.lifecycle ≠ v40.lifecycle) = true)
    ∧ (∃ t, exec .bitmapFreeze v40 = .next t ∧ decide (t.lifecycle ≠ v40.lifecycle) = true)
    ∧ ∃ t, exec .reset v40 = .next t ∧ decide (t.lifecycle ≠ v40.lifecycle) = true :=
  ⟨next_of (by decide +kernel), next_of (by decide +kernel), next_of (by decide +kernel), next_of (by decide +kernel)⟩
theorem test_hyp_RecoverableChangesNothing : ∃ t, exec .frameAlloc (v40In .built (ops 0 0 0 0) 0xFF) = .next t
    ∧ decide (t.status ≠ .ok ∧ t.status ≠ .fatal ∧ t.status = .outOfMemory) = true := next_of (by decide +kernel)

/-- A state whose port answers the next access with an error. -/
def withError (s : State) : State :=
  { s with answers := [.error 0x5A], config := { mmapMax := none, portCanError := true } }

/-- A read, an allocation, a build stopped at the map and one stopped at its arena; and no fault. -/
theorem test_hyp_FatalFaultSequence : (withError (v40In .built (ops 0 0 0 0) 0)).halted = false
    ∧ (∃ t, exec .frameTest (withError (v40In .built (ops 0 0 0 0) 0)) = .next t ∧ decide (t.halted = true) = true)
    ∧ (∃ t, exec .frameAlloc (withError (v40In .built (ops 0 0 0 0) 0)) = .next t ∧ decide (t.halted = true) = true)
    ∧ (∃ t, exec .bitmapBuild (withError v42) = .next t ∧ decide (t.halted = true ∧ t.fault.info2 = 0) = true)
    ∧ (∃ t, exec .bitmapBuild (withArena v42 0 1 0) = .next t
        ∧ decide (t.halted = true ∧ t.fault.code ≠ some .busError) = true)
    ∧ ∃ t, exec .frameTest v40 = .next t ∧ decide (t.halted = false) = true :=
  ⟨rfl, next_of (by decide +kernel), next_of (by decide +kernel), next_of (by decide +kernel),
    next_of (by decide +kernel), next_of (by decide +kernel)⟩
theorem test_hyp_FaultsOfCommands : (withError (v40In .built (ops 0 0 0 0) 0)).halted = false
    ∧ ∃ t, exec .frameTest (withError (v40In .built (ops 0 0 0 0) 0)) = .next t
      ∧ decide (t.halted = true ∧ t.fault.code = some .busError) = true := ⟨rfl, next_of (by decide +kernel)⟩
theorem test_hyp_OnlyBitmapBytesWritten : v42.Inv
    ∧ ∃ t, exec .bitmapBuild v42 = .next t ∧ decide (t.bitmap.bytes = 2 ∧ t.bitmapAddr 0 = 0 ∧ t.bitmapAddr 1 = 1) = true :=
  ⟨inv_of (by decide +kernel), next_of (by decide +kernel)⟩
theorem test_hyp_RegisterOwners : ∃ t, exec .csrWrite { State.reset with args := ops 0x0B 7 0 0 } = .next t
    ∧ decide (t.mmapCount = 7) = true := next_of (by decide +kernel)

/-! The memory port and the invariant. -/

theorem test_hyp_ReadsAreAligned : State.reset.Inv ∧ (at4321 .l1 511 511 511 511 .reset).Inv ∧ m3.Inv :=
  ⟨inv_of (by decide +kernel), inv_of (by decide +kernel), inv_of (by decide +kernel)⟩
/-- The four accesses of BusErrors: FRAME_TEST of frames 0 and 5, FRAME_FREE of frame 5, the first map word, an entry. -/
theorem test_hyp_BusErrors : (withError v40).config.portCanError = true ∧ (withError v40).halted = false
    ∧ (withError v40).answers = .error 0x5A :: [] ∧ v40.lifecycle ≠ .uninit
    ∧ (v40In .inuse (ops 5 0 0 0) 0xFF).args.v0.toNat < (v40In .inuse (ops 5 0 0 0) 0xFF).bitmap.frameCount.toNat
    ∧ (v40In .built (ops 0x5000 0 0 0) 0xFF).lifecycle = .built
    ∧ (v40In .inuse (ops 0x5000 0 0 0) 0xFF).lifecycle = .inuse
    ∧ (v40In .inuse (ops 0x5000 0 0 0) 0xFF).args.v0.toNat = 4096 * 5
    ∧ (v40In .inuse (ops 0x5000 0 0 0) 0xFF).args.v1 = 0 ∧ (v40In .inuse (ops 0x5000 0 0 0) 0xFF).frameBit 5 = true
    ∧ ({ v40 with answers := [.normal, .error 0x5A] } : State).answers = .normal :: .error 0x5A :: []
    ∧ ¬ (withError (findIn (ops 1 1 0 0))).overMax ∧ (withError (findIn (ops 1 1 0 0))).args.v1.toNat = 2 ^ 0
    ∧ 0 < (withError (findIn (ops 1 1 0 0))).mmapCount.toNat
    ∧ (withError (visiting .l4 511 0)).walker = .active .l4 (posAt 511) ∧ ((posAt 511).idx .l4).val < 512 :=
  ⟨rfl, rfl, rfl, by decide +kernel, by decide +kernel, rfl, rfl, by decide +kernel, by decide +kernel,
    by decide +kernel, rfl, no_max rfl, by decide +kernel, by decide +kernel, rfl, by decide +kernel⟩
theorem test_hyp_RacingReads : ({ v40 with answers := [.raced 0x5001] } : State).answers = .raced 0x5001 :: []
    ∧ v40.lifecycle ≠ .uninit ∧ (v40In .inuse (ops 5 0 0 0) 0xFF).args.v0.toNat < v40.bitmap.frameCount.toNat
    ∧ (visiting .l1 511 0).walker = .active .l1 (posAt 511) ∧ (posAt 511).onPath .l1 ∧ (posAt 511).idx1.val < 512
    ∧ 13 ≤ (visiting .l1 511 0).physBits ∧ (visiting .l1 511 0).physBits ≤ 52 ∧ (0x5001 : Word).getLsbD 0 = true
    ∧ violation .l1 0x5001 (visiting .l1 511 0).physBits (visiting .l1 511 0).nxe = 0 :=
  ⟨rfl, by decide +kernel, by decide +kernel, rfl, onPath_of (by decide +kernel), by decide +kernel⟩

/-- A state whose port answers `n` accesses normally and the next one with an error. -/
def withErrorAt (n : Nat) (s : State) : State :=
  { s with answers := List.replicate n .normal ++ .error 0x5A :: [], config := { mmapMax := none, portCanError := true } }

theorem no_error_in (n : Nat) (y : Byte) : PortAnswer.error y ∉ List.replicate n PortAnswer.normal := by
  simp [List.mem_replicate]
/-- The first and the last word of the map, the first and the last byte of a build. -/
theorem test_hyp_BusErrorsInLoops_map : (withErrorAt 0 (findIn (ops 1 1 0 0))).halted = false
    ∧ (withErrorAt 0 (findIn (ops 1 1 0 0))).config.portCanError = true
    ∧ (withErrorAt 11 (findIn (ops 1 1 0 0))).arenaValid = false
    ∧ (withErrorAt 11 (findIn (ops 1 1 0 0))).args.v1.toNat = 2 ^ 0
    ∧ (withErrorAt 11 (findIn (ops 1 1 0 0))).lifecycle = .uninit ∧ ¬ (withErrorAt 11 (findIn (ops 1 1 0 0))).overMax
    ∧ (List.replicate 11 PortAnswer.normal).length < 3 * (withErrorAt 11 (findIn (ops 1 1 0 0))).mmapCount.toNat
    ∧ (withErrorAt 8 v42).arenaValid = true ∧ (withErrorAt 8 v42).lifecycle = .uninit ∧ ¬ (withErrorAt 8 v42).overMax
    ∧ (List.replicate 8 PortAnswer.normal).length < 3 * (withErrorAt 8 v42).mmapCount.toNat
    ∧ 3 * (withErrorAt 9 v42).mmapCount.toNat + 0 = 9 ∧ 3 * (withErrorAt 10 v42).mmapCount.toNat + 1 = 10
    ∧ (withErrorAt 10 v42).arena.cursor.toNat + 2 ≤ (withErrorAt 10 v42).arena.limit.toNat
    ∧ v42.spanIs 0xA000 ∧ 2 = (0xA000 / 4096 + 7) / 8 ∧ v42.mem.wf = true :=
  ⟨rfl, rfl, rfl, by decide +kernel, rfl, no_max rfl, by decide +kernel, rfl, rfl, no_max rfl, by decide +kernel,
    by decide +kernel, by decide +kernel, by decide +kernel, v42_span _ (.inl rfl), by decide +kernel, by decide +kernel⟩
/-- The first entry of a walk, and the first and the last byte of a bitmap. -/
theorem test_hyp_BusErrorsInLoops_bitmap : (withErrorAt 0 emptyWalk).lifecycle = .built
    ∧ 13 ≤ (withErrorAt 0 emptyWalk).physBits ∧ (withErrorAt 0 emptyWalk).physBits ≤ 52
    ∧ ¬ (withErrorAt 0 emptyWalk).rootReserved (withErrorAt 0 emptyWalk).args.v0
    ∧ (List.replicate 0 PortAnswer.normal).length < (withErrorAt 0 v40).bitmap.bytes.toNat
    ∧ (List.replicate 0x40 PortAnswer.normal).length < (withErrorAt 0x40 big).bitmap.bytes.toNat
    ∧ (withErrorAt 1 { big with mem := { cells := [(0, 0xFF)] } }).Inv
    ∧ 1 < (withErrorAt 1 { big with mem := { cells := [(0, 0xFF)] } }).bitmap.bytes.toNat
    ∧ (∀ g, g < 8 * 1 → (withErrorAt 1 { big with mem := { cells := [(0, 0xFF)] } }).frameBit g = true)
    ∧ (withErrorAt 2 { big with mem := { cells := [(0, 0xFF)] } }).frameBit 8 = false
    ∧ (withErrorAt 1 v40).Inv ∧ (withErrorAt 1 v40).frameBit 0 = false ∧ 0 < (withErrorAt 1 v40).bitmap.frameCount.toNat :=
  ⟨rfl, by decide +kernel, by decide +kernel, cr3_free (by decide +kernel) (by decide +kernel), by decide +kernel,
    by decide +kernel, inv_of (by decide +kernel), by decide +kernel, by decide +kernel, by decide +kernel,
    inv_of (by decide +kernel), by decide +kernel, by decide +kernel⟩
/-- R240, R242, R309: LIFECYCLE is INUSE after a FRAME_ALLOC or FRAME_FREE from BUILT that ends in BUS_ERROR. -/
theorem test_frameAlloc_fatal : (after (exec .frameAlloc (withErrorAt 0 v40))).status = .fatal
    ∧ (after (exec .frameAlloc (withErrorAt 0 v40))).lifecycle = .inuse := by decide +kernel
theorem test_frameFree_fatal :
    (after (exec .frameFree (withErrorAt 0 (v40In .built (ops 0x5000 0 0 0) 0xFF)))).status = .fatal
    ∧ (after (exec .frameFree (withErrorAt 0 (v40In .built (ops 0x5000 0 0 0) 0xFF)))).lifecycle = .inuse := by
  decide +kernel
/-- FRAME_ALLOC stopped at its write; the block is halted, and what it wrote is free. -/
theorem test_hyp_FirstErrorEndsTheCommand : (withErrorAt 1 v40).halted = false
    ∧ (withErrorAt 1 v40).config.portCanError = true
    ∧ (∃ t, exec .frameAlloc (withErrorAt 1 v40) = .next t
        ∧ decide (t.halted = true ∧ t.answers = [] ∧ t.fault.info2 = 1 ∧ t.mem.read 0 = 0x5A) = true)
    ∧ ∃ t, exec .frameAlloc (withErrorAt 2 v40) = .next t
        ∧ decide (t.halted = false ∧ t.answers = [.error 0x5A]) = true :=
  ⟨rfl, rfl, next_of (by decide +kernel), next_of (by decide +kernel)⟩
theorem test_hyp_StepKeepsInv : ({ v40 with inputs := [.command { cmd := 0x40, args := .zero, answers := [] }] } : State).Inv
    ∧ ∃ t, step { v40 with inputs := [.command { cmd := 0x40, args := .zero, answers := [] }] } = .next t
      ∧ decide (t.status = .ok) = true := ⟨inv_of (by decide +kernel), next_of (by decide +kernel)⟩

end

end Sys2Proof.Tests
end

section
/-! The port addresses as natural numbers modulo 2^64 (20_memory.md R60, R65), one lemma per address function of the
model, and the statement O58 assembled from them. -/

namespace Sys2Proof.Machine

theorem toNat_add_ofNat_word (b : Word) (n : Nat) : (b + BitVec.ofNat 64 n).toNat = (b.toNat + n) % 2 ^ 64 := by
  rw [BitVec.toNat_add, BitVec.toNat_ofNat, Nat.add_mod_mod]

theorem toNat_phys (s : State) (p : Word) : (s.phys p).toNat = (p.toNat + s.dmapOffset.toNat) % 2 ^ 64 :=
  BitVec.toNat_add p s.dmapOffset

/-- The wrap of a physical address and that of its port address are one reduction modulo 2^64. -/
theorem toNat_phys_add_ofNat (s : State) (b : Word) (n : Nat) :
    (s.phys (b + BitVec.ofNat 64 n)).toNat = (b.toNat + n + s.dmapOffset.toNat) % 2 ^ 64 := by
  rw [toNat_phys, toNat_add_ofNat_word, Nat.mod_add_mod]

theorem toNat_entryAddr_add_ofNat (s : State) (k j : Nat) :
    (s.entryAddr k + BitVec.ofNat 64 j).toNat = (s.mmapBase.toNat + 24 * k + j) % 2 ^ 64 := by
  rw [State.entryAddr, toNat_add_ofNat_word, toNat_add_ofNat_word, Nat.mod_add_mod]

theorem toNat_bitmapAddr (s : State) (k : Nat) :
    (s.bitmapAddr k).toNat = (s.bitmap.base.toNat + k + s.dmapOffset.toNat) % 2 ^ 64 :=
  toNat_phys_add_ofNat s s.bitmap.base k

theorem toNat_frameByteAddr (s : State) (f : Nat) :
    (s.frameByteAddr f).toNat = (s.bitmap.base.toNat + f / 8 + s.dmapOffset.toNat) % 2 ^ 64 :=
  toNat_bitmapAddr s (f / 8)

theorem toNat_phys_entryAt (s : State) (T : Word) (i : Nat) :
    (s.phys (entryAt T i)).toNat = (T.toNat + 8 * i + s.dmapOffset.toNat) % 2 ^ 64 :=
  toNat_phys_add_ofNat s T (8 * i)

/-- Settles O58: each port address is a sum of words, and the reductions inside the sum are absorbed by the last. -/
theorem portAddresses : Obligations.PortAddresses := fun s =>
  ⟨toNat_phys s, toNat_entryAddr_add_ofNat s, toNat_bitmapAddr s, toNat_frameByteAddr s, toNat_phys_entryAt s⟩

end Sys2Proof.Machine
end

section
/-! One step by the event that waits (10_state.md R20, R21, R24), one equation per kind of event; O4 and O6
follow. Then a read of STATUS (O43). -/

namespace Sys2Proof.Machine

theorem step_of_noInput {s : State} (hin : s.inputs = []) : step s = .next s := by
  unfold step arrive
  rw [hin]

theorem step_of_decoded {s : State} {r : Request} {rest : List Input} {i : Instr}
    (hin : s.inputs = .command r :: rest) (hd : decode r.cmd = .ok i) :
    step s = exec i { s with args := r.args, answers := r.answers, inputs := rest } := by
  unfold step arrive
  rw [hin]
  dsimp only
  rw [hd]
  rfl

theorem step_of_illegal {s : State} {r : Request} {rest : List Input} {e : DecodeError}
    (hin : s.inputs = .command r :: rest) (hd : decode r.cmd = .error e) :
    step s = .next (rejectWord { s with args := r.args, answers := r.answers, inputs := rest }) := by
  unfold step arrive
  rw [hin]
  dsimp only
  rw [hd]
  rfl

theorem step_of_resetLine {s : State} {rest : List Input} (hin : s.inputs = .resetLine :: rest) :
    step s = .next (resetBlock { s with inputs := rest }) := by
  unfold step arrive
  rw [hin]

theorem step_of_store {s : State} {a : Word} {b : Byte} {rest : List Input} (hin : s.inputs = .store a b :: rest) :
    step s = .next { s with inputs := rest, mem := s.mem.write a b } := by
  unfold step arrive
  rw [hin]

/-- A request that keeps the operands and the answers, once taken, leaves the state it was put before. -/
theorem step_withFetchWord {s : State} {w : Nat} {i : Instr} (hd : decode (BitVec.ofNat 32 w) = .ok i) :
    step (s.withFetchWord 32 w) = exec i s := by
  have hw : BitVec.ofNat 32 (w % 2 ^ 32) = BitVec.ofNat 32 w := by
    apply BitVec.eq_of_toNat_eq
    simp only [BitVec.toNat_ofNat, Nat.mod_mod]
  exact step_of_decoded (r := requestOf (BitVec.ofNat 32 (w % 2 ^ 32)) s) rfl (hw ▸ hd)

/-- Settles O4, by the equation of a step on a legal word. -/
theorem stepRunsDecoded : Obligations.StepRunsDecoded :=
  ⟨fun _ _ _ _ hin hd => step_of_decoded hin hd, fun _ _ _ hd => step_withFetchWord hd⟩

/-- A store outside the bytes the block owns leaves every bit of a built bitmap (20_memory.md R82). -/
theorem frameBit_of_store_notOwned {s : State} {a : Word} (b : Byte) (rest : List Input) {f : Nat}
    (hwf : s.mem.wf = true) (hl : s.lifecycle ≠ .uninit) (ha : ¬ s.owns a) (hf : f < 8 * s.bitmap.bytes.toNat) :
    ({ s with inputs := rest, mem := s.mem.write a b } : State).frameBit f = s.frameBit f := by
  have hne : s.frameByteAddr f ≠ a := fun e => ha ⟨hl, f / 8, by omega, e.symm⟩
  exact congrArg (BitVec.getLsbD · (f % 8)) (Memory.read_write_of_ne hwf b hne)

/-- Settles O6: the step is the store, and no byte of the bitmap lies at its address. -/
theorem agentStore : Obligations.AgentStore := fun _ _ b rest hin =>
  ⟨step_of_store hin, fun hs hl ha _ hf => frameBit_of_store_notOwned b rest hs.memCanonical hl ha hf⟩

theorem csrOf_zero : csrOf 0 = some .status := by decide

/-- CSR_READ of a register, in every state: its gate never closes (10_state.md R47, 60_exceptions.md R311). -/
theorem execCsrRead_of_csrOf {s : State} {c : Csr} (hc : csrOf s.args.v0 = some c) :
    execCsrRead s = .next (finish { Quad.zero with v0 := s.readCsr c } s) := by
  have hg : gate .csrRead s = none := by simp [gate, runsHalted, permits]
  unfold execCsrRead
  rw [hg]
  dsimp only
  rw [hc]

/-- Settles O43: the register is read before STATUS takes the read's own code. -/
theorem statusOfThePrevious : Obligations.StatusOfThePrevious := by
  intro i s t a _ ha
  have hc : csrOf ({ t with args := a } : State).args.v0 = some .status := by
    rw [show ({ t with args := a } : State).args.v0 = 0 from ha]
    exact csrOf_zero
  exact execCsrRead_of_csrOf hc

end Sys2Proof.Machine
end

section
/-! Every 8-byte read is 8-aligned (20_memory.md R64; O53), by the low bits that registers and tables keep clear. -/

namespace Sys2Proof.Machine

/-- What is masked has no bit outside the mask. -/
theorem and_mask_and_eq_zero (v : Word) {m k : Word} (h : m &&& k = 0) : v &&& m &&& k = 0 := by
  rw [BitVec.and_assoc, h]
  exact BitVec.and_zero

/-- A word whose `n` low bits are clear is a multiple of 2^n. -/
theorem toNat_mod_of_and_eq_zero {v m : Word} (n : Nat) (hm : m.toNat = 2 ^ n - 1) (h : v &&& m = 0) :
    v.toNat % 2 ^ n = 0 := by
  rw [← Nat.and_two_pow_sub_one_eq_mod, ← hm, ← BitVec.toNat_and, h]
  rfl

/-- A frame address is 4096-aligned (10_state.md R44). -/
theorem toNat_mod_4096_of_frameAddr {a : Word} (h : a &&& ~~~0x000FFFFFFFFFF000 = 0) : a.toNat % 4096 = 0 := by
  refine toNat_mod_of_and_eq_zero (m := 0xFFF) 12 rfl ?_
  calc a &&& 0xFFF = a &&& ~~~0x000FFFFFFFFFF000 &&& 0xFFF := by
        rw [BitVec.and_assoc]
        rfl
    _ = 0 := by
        rw [h]
        exact BitVec.zero_and

theorem and_addrMask_frameAddr (e : Word) : (e &&& addrMask) &&& ~~~0x000FFFFFFFFFF000 = 0 :=
  and_mask_and_eq_zero e (by decide)

/-- An entry of a table at a frame address is 8-aligned on the port (10_state.md R33). -/
theorem entry_read_aligned {s : State} (hs : s.Inv) {T : Word} (hT : T &&& ~~~0x000FFFFFFFFFF000 = 0) (i : Nat) :
    (s.phys (T + BitVec.ofNat 64 (8 * i))).toNat % 8 = 0 := by
  have h1 := toNat_mod_4096_of_frameAddr hT
  have h2 : s.dmapOffset.toNat % 4096 = 0 := toNat_mod_of_and_eq_zero 12 rfl hs.offsetAligned
  rw [toNat_phys_add_ofNat]
  omega

/-- A word of a memory-map entry is 8-aligned (10_state.md R34). -/
theorem map_read_aligned {s : State} (hs : s.Inv) (k : Nat) {j : Nat} (hj : j = 0 ∨ j = 8 ∨ j = 16) :
    (s.entryAddr k + BitVec.ofNat 64 j).toNat % 8 = 0 := by
  have h : s.mmapBase.toNat % 8 = 0 := toNat_mod_of_and_eq_zero 3 rfl hs.mapAligned
  rw [toNat_entryAddr_add_ofNat]
  omega

/-- Settles O53: the tables are at frame addresses, by the invariant or by the mask that made them. -/
theorem readsAreAligned : Obligations.ReadsAreAligned := fun _ hs =>
  ⟨fun l i _ => entry_read_aligned hs (hs.tablesAligned l) i,
    fun cr3 e i _ => ⟨entry_read_aligned hs (and_addrMask_frameAddr cr3) i,
      entry_read_aligned hs (and_addrMask_frameAddr e) i⟩,
    fun k _ hj => map_read_aligned hs k hj⟩

end Sys2Proof.Machine
end

section
/-! What a command leaves, whatever its ending: `exec_effect` joins the endings of `exec_ends` into one state that
differs in the response, the halted line and the fault registers only. The owners of the registers (O51, O19) and the
moves of LIFECYCLE (O46) follow. -/

namespace Sys2Proof.Machine

/-- Every command but RESET has its effect, then ends: the halted line and the fault registers stay as they were, or
a fatal fault sets them. -/
theorem exec_effect {i : Instr} {s t : State} (h : exec i s = .next t) (hr : i ≠ .reset) :
    ∃ s1 r st hl f, Effect i s s1 ∧ t = { s1 with res := r, status := st, halted := hl, fault := f }
      ∧ (hl = s.halted ∧ f = s.fault ∨ hl = true ∧ f.code.isSome = true) := by
  rcases exec_ends h hr with ⟨st, rfl, _⟩ | ⟨_, rfl⟩ | ⟨s1, he, ⟨r, rfl⟩ | ⟨f, _, rfl, _⟩ | ⟨_, _, rfl⟩⟩
  · exact ⟨s, _, _, _, _, .refl i s, rfl, .inl ⟨rfl, rfl⟩⟩
  · exact ⟨s, _, _, _, _, .refl i s, rfl, .inl ⟨rfl, rfl⟩⟩
  · exact ⟨s1, _, _, _, _, he, rfl, .inl (by rw [he.frame]; exact ⟨rfl, rfl⟩)⟩
  · exact ⟨s1, _, _, _, _, he, rfl, .inr ⟨rfl, rfl⟩⟩
  · exact ⟨s1, _, _, _, _, he, rfl, .inl (by rw [he.frame]; exact ⟨rfl, rfl⟩)⟩

/-- Settles O19: only ARENA_FIND replaces the bounds, and it needs the arena invalid. -/
theorem arenaOnlyBumps : Obligations.ArenaOnlyBumps := by
  intro i s t h hr
  obtain ⟨s1, _, _, _, _, he, rfl, _⟩ := exec_effect h hr
  rcases he.arena with hsame | ⟨hi, hv⟩ | ⟨hi, hbump⟩
  · exact ⟨fun _ => by simp [hsame], fun _ _ _ => hsame⟩
  · exact ⟨fun hv' => absurd (hv ▸ hv') (by decide), fun h1 _ _ => absurd hi h1⟩
  · exact ⟨fun _ => hbump, fun _ h2 h3 => absurd hi (by simp [h2, h3])⟩

theorem Effect.owned_by_none {i : Instr} {s s1 : State} (he : Effect i s s1) :
    s1.args = s.args ∧ s1.inputs = s.inputs ∧ s1.config = s.config := by
  rw [he.frame]
  exact ⟨rfl, rfl, rfl⟩

/-- Settles O51: each register differs only under the command that owns it. -/
theorem registerOwners : Obligations.RegisterOwners := by
  intro i s t h hr
  obtain ⟨s1, _, _, _, _, he, rfl, _⟩ := exec_effect h hr
  obtain ⟨hargs, hinputs, hconfig⟩ := he.owned_by_none
  refine ⟨hargs, hinputs, hconfig, fun hi => ?_, fun hi => ?_, fun hf hb => ?_, fun h1 h2 h3 h4 => ?_⟩
  · exact he.config.resolve_right hi
  · exact he.bitmap.resolve_right hi
  · rcases he.arenaValid with hsame | ⟨hi, _⟩ | ⟨hi, _⟩
    · exact hsame
    · exact absurd hi hf
    · exact absurd hi hb
  · exact he.walker.resolve_right (by simp [h1, h2, h3, h4])

/-- Settles O46: how the command ended says which STATUS stands after the move of its effect. -/
theorem lifecycleMoves : Obligations.LifecycleMoves := by
  intro i s t h hne
  by_cases hr : i = .reset
  · subst hr
    cases (execReset_eq s).symm.trans h
    exact .inr (.inr (.inr ⟨rfl, rfl⟩))
  rcases exec_ends h hr with ⟨st, rfl, _⟩ | ⟨_, rfl⟩ | ⟨s1, he, hend⟩
  · exact absurd rfl hne
  · exact absurd rfl hne
  have hl : t.lifecycle = s1.lifecycle := by
    rcases hend with ⟨r, rfl⟩ | ⟨f, _, rfl, _⟩ | ⟨_, _, rfl⟩ <;> rfl
  rw [hl] at hne ⊢
  rcases he.lifecycle with hsame | ⟨hi, hs, hmv⟩ | ⟨rfl, hs, hmv⟩ | ⟨rfl, hs, hv, hmv, _⟩
  · exact absurd hsame hne
  · refine .inr (.inl ⟨hi, hs.resolve_right fun e => hne (hmv.trans e.symm), hmv, ?_⟩)
    rcases hend with ⟨r, rfl⟩ | ⟨f, _, rfl, _⟩ | ⟨_, _, rfl⟩
    · exact .inl rfl
    · exact .inr (.inr rfl)
    · exact .inr (.inl rfl)
  · refine .inr (.inr (.inl ⟨rfl, hs, hmv, ?_⟩))
    rcases hend with ⟨r, rfl⟩ | ⟨f, hf, _⟩ | ⟨hi, _⟩
    · rfl
    · cases hf
    · cases hi
  · refine .inl ⟨rfl, hs, hv, hmv, ?_⟩
    rcases hend with ⟨r, rfl⟩ | ⟨f, _, _, hff⟩ | ⟨hi, _⟩
    · rfl
    · exact absurd (hff.lifecycle.trans (if_neg (by decide))) hne
    · cases hi

end Sys2Proof.Machine
end

section
/-! The lifecycle table of 10_state.md R47 (O45): what the gate of a command answers is the command's whole outcome when
it turns the command away, and BAD_STATE comes from nowhere else but CSR_WRITE. -/

namespace Sys2Proof.Machine

theorem codec_of_gate {i : Instr} {r : Quad} {s : State} {st : Status} (h : gate i s = some st) :
    codec i r s = .next (fail st s) := by
  unfold codec
  rw [h]

theorem pteRsvd_of_gate {i : Instr} {l : Level} {s : State} {st : Status} (h : gate i s = some st) :
    pteRsvd i l s = .next (fail st s) := by
  unfold pteRsvd
  rw [h]

/-- A command its gate turns away fails with the gate's status. -/
theorem exec_of_gate {i : Instr} {s : State} {st : Status} (h : gate i s = some st) :
    exec i s = .next (fail st s) := by
  cases i
  case pteNewL1 | pteNewL2 | pteNewL3 | pteNewL4 | pteFlagsL1 | pteFlagsL2 | pteFlagsL3 | pteFlagsL4
      | pteFrameL1 | pteFrameL2 | pteFrameL3 | pteFrameL4
      | ptePresentL1 | ptePresentL2 | ptePresentL3 | ptePresentL4 | pteLargeL2 | pteLargeL3 =>
    exact codec_of_gate h
  case pteRsvdL1 | pteRsvdL2 | pteRsvdL3 | pteRsvdL4 => exact pteRsvd_of_gate h
  all_goals
    simp only [exec, execBitx, execBiti, execArenaFind, execArenaAlloc, execArenaFree, execBitmapBuild, execWalkStart,
      execWalkNext, execWalkMark, execWalkCheck, execFrameAlloc, execFrameFree, execFrameTest, execFreeCount,
      execBitmapFreeze, execCsrRead, execCsrWrite, execReset, h]

theorem gate_of_halted {i : Instr} {s : State} (hh : s.halted = true) (h1 : i ≠ .csrRead) (h2 : i ≠ .reset) :
    gate i s = some .halted := by
  simp [gate, runsHalted, hh, h1, h2]

theorem gate_of_not_permits {i : Instr} {s : State} (hh : s.halted = false)
    (hp : permits i s.lifecycle s.arenaValid = false) : gate i s = some .badState := by
  simp [gate, hh, hp]

/-- The entries of the table of R47 that are `-`, for the commands it lists. -/
def TableForbids (i : Instr) (s : State) : Prop :=
  (i = .arenaFind ∧ (s.lifecycle ≠ .uninit ∨ s.arenaValid = true))
    ∨ ((i = .arenaAlloc ∨ i = .bitmapBuild) ∧ (s.lifecycle ≠ .uninit ∨ s.arenaValid = false))
    ∨ ((i = .walkMark ∨ i = .frameAlloc ∨ i = .frameFree ∨ i = .bitmapFreeze)
        ∧ (s.lifecycle = .uninit ∨ s.lifecycle = .frozen))
    ∨ ((i = .walkCheck ∨ i = .frameTest ∨ i = .freeCount) ∧ s.lifecycle = .uninit)

theorem not_permits_iff (i : Instr) (s : State) :
    permits i s.lifecycle s.arenaValid = false ↔ TableForbids i s := by
  unfold TableForbids
  cases i
  case arenaFind | arenaAlloc | bitmapBuild | walkMark | frameAlloc | frameFree | bitmapFreeze
      | walkCheck | frameTest | freeCount =>
    cases s.lifecycle <;> simp [permits]
  all_goals simp [permits]

/-- CSR_WRITE answers BAD_STATE only for a register that is writable in UNINIT alone (45_control.md R271). -/
theorem execCsrWrite_badState {s t : State} (hh : s.halted = false) (h : execCsrWrite s = .next t)
    (ht : t.status = .badState) : s.lifecycle ≠ .uninit := by
  have hg : gate .csrWrite s = none := gate_none hh rfl
  unfold execCsrWrite at h
  rw [hg] at h
  dsimp only at h
  split at h
  · cases h; cases ht
  · split at h
    · cases h; cases ht
    · cases h; cases ht
    · split at h
      · assumption
      · cases h; cases ht

/-- BAD_STATE is the gate's answer, or CSR_WRITE's. -/
theorem exec_badState {i : Instr} {s t : State} (hh : s.halted = false) (h : exec i s = .next t)
    (ht : t.status = .badState) : (i = .csrWrite ∧ s.lifecycle ≠ .uninit) ∨ TableForbids i s := by
  have hr : i ≠ .reset := by
    rintro rfl
    cases (execReset_eq s).symm.trans h
    cases ht
  rcases exec_ends h hr with ⟨st, rfl, _, _, _, hbad, _⟩ | ⟨_, rfl⟩ | ⟨s1, _, ⟨r, rfl⟩ | ⟨f, _, rfl, _⟩ | ⟨_, _, rfl⟩⟩
  · rcases hbad ht with hp | rfl
    · exact .inr ((not_permits_iff i s).mp hp)
    · exact .inl ⟨rfl, execCsrWrite_badState hh h ht⟩
  all_goals cases ht

/-- Settles O45, by the gate: HALTED first, then the table; past it no command but CSR_WRITE looks at LIFECYCLE. -/
theorem lifecycleTable : Obligations.LifecycleTable := fun s =>
  ⟨fun hh _ h1 h2 => exec_of_gate (gate_of_halted hh h1 h2),
    fun hh => ⟨fun i hi => exec_of_gate (gate_of_not_permits hh ((not_permits_iff i s).mpr hi)),
      fun _ _ h ht => exec_badState hh h ht⟩⟩

end Sys2Proof.Machine
end

section
/-! Where a command can leave the walker (10_state.md R44, 43_page_walker.md R204): an iteration of ADVANCE steps past
an entry or enters the table an entry points to, so tables stay frame addresses, and every command ends at a position of
the kind it began with. -/

namespace Sys2Proof.Machine

/-- Every table address of the position is a frame address (R44). -/
def WalkPos.framed (p : WalkPos) : Prop := ∀ l, p.tbl l &&& ~~~0x000FFFFFFFFFF000 = 0

/-- What the invariant says of the walker. -/
def Walker.wf (w : Walker) : Prop := (walkerPos w).framed ∧ ∀ l p, w = .active l p → p.onPath l

/-- The position at the first entry of the table at `a`, entered at level `l` (R204). -/
def WalkPos.enter (p : WalkPos) (l : Level) (a : Word) : WalkPos :=
  match l with
  | .l1 => { p with tbl1 := a, idx1 := 0 }
  | .l2 => { p with tbl2 := a, idx2 := 0 }
  | .l3 => { p with tbl3 := a, idx3 := 0 }
  | .l4 => { p with tbl4 := a, idx4 := 0 }

@[simp] theorem tbl_bump (p : WalkPos) (l k : Level) : (p.bump l).tbl k = p.tbl k := by
  cases l <;> cases k <;> rfl

@[simp] theorem tbl_enter (p : WalkPos) (l : Level) (a : Word) (k : Level) :
    (p.enter l a).tbl k = if k = l then a else p.tbl k := by
  cases l <;> cases k <;> rfl

theorem Walker.wf_active {l : Level} {p : WalkPos} : (Walker.active l p).wf ↔ p.framed ∧ p.onPath l := by
  refine and_congr_right fun _ => ⟨fun h => h l p rfl, fun h l' p' e => ?_⟩
  cases e
  exact h

theorem Walker.wf_done {p : WalkPos} : (Walker.done p).wf ↔ p.framed :=
  ⟨fun h => h.1, fun h => ⟨h, nofun⟩⟩

theorem Walker.wf_idle : Walker.idle.wf := ⟨fun l => by cases l <;> rfl, nofun⟩

theorem WalkPos.framed_bump {p : WalkPos} (h : p.framed) (l : Level) : (p.bump l).framed := fun k => by
  rw [tbl_bump]
  exact h k

theorem WalkPos.framed_enter {p : WalkPos} (h : p.framed) (l : Level) (e : Word) :
    (p.enter l (e &&& addrMask)).framed := fun k => by
  rw [tbl_enter]
  split
  · exact and_addrMask_frameAddr e
  · exact h k

theorem WalkPos.framed_init (cr3 : Word) : (WalkPos.init cr3).framed := fun l => by
  cases l
  case l4 => exact and_addrMask_frameAddr cr3
  all_goals exact BitVec.zero_and

/-- The walker at the root of any CR3 value (R206). -/
theorem Walker.wf_init (cr3 : Word) : (Walker.active .l4 (.init cr3)).wf :=
  Walker.wf_active.mpr ⟨WalkPos.framed_init cr3, fun l' h => by cases l' <;> simp [levelNumber] at h⟩

/-- An iteration that goes on has stepped past an entry or entered the table an entry points to (R204). -/
theorem advanceOnce_next_cases {l l' : Level} {p p' : WalkPos} {s : State}
    (h : (advanceOnce l p s).next? = some (l', p')) :
    p' = p.bump l' ∨ ∃ e, p' = p.enter l' (e &&& addrMask) := by
  unfold advanceOnce at h
  split at h
  · cases l <;> cases h <;> exact .inl rfl
  · split at h
    · cases h
    · unfold visitEntry at h
      split at h
      · cases h; exact .inl rfl
      · split at h
        · cases h
        · cases l <;> simp only [followEntry, yieldRecord] at h
          case l1 => cases h; exact .inl rfl
          case l2 =>
            split at h <;> cases h
            · exact .inl rfl
            · exact .inr ⟨_, rfl⟩
          case l3 =>
            split at h <;> cases h
            exact .inr ⟨_, rfl⟩
          case l4 => cases h; exact .inr ⟨_, rfl⟩

theorem advanceOnce_framed {l l' : Level} {p p' : WalkPos} {s : State}
    (h : (advanceOnce l p s).next? = some (l', p')) (hp : p.framed) : p'.framed := by
  rcases advanceOnce_next_cases h with rfl | ⟨e, rfl⟩
  · exact WalkPos.framed_bump hp l'
  · exact WalkPos.framed_enter hp l' e

/-- ADVANCE, wherever it ends, leaves the walker at such a position. -/
theorem advance_walker_wf {n : Nat} {l : Level} {p : WalkPos} {s s' : State}
    (h : (advance n l p s).state? = some s') (hf : p.framed) (hp : p.onPath l) : s'.walker.wf := by
  induction n generalizing l p s with
  | zero => cases h
  | succ n ih =>
    unfold advance at h
    split at h <;> rename_i e
    · have hnext := congrArg WalkIter.next? e
      exact ih h (advanceOnce_framed hnext hf) (advanceOnce_onPath hnext hp)
    · cases h
      have hnext := congrArg WalkIter.next? e
      rw [advanceOnce_record e]
      exact Walker.wf_active.mpr ⟨advanceOnce_framed hnext hf, advanceOnce_onPath hnext hp⟩
    · cases h
      obtain ⟨_, _, rfl⟩ := advanceOnce_exhausted e
      exact Walker.wf_done.mpr hf
    · cases h
      rw [(advanceOnce_fault e).2]
      exact Walker.wf_active.mpr ⟨hf, hp⟩

/-- Visits of frames do not move the walker, so a whole walk ends where its last ADVANCE did. -/
theorem walkAll_walker_wf {P : State → Word → Prop} {visit : Nat → Tally → State → Access Tally}
    (hv : VisitTouches P visit) (hP : WalkStable P) {n : Nat} {l : Level} {p : WalkPos} {t : Tally} {s s' : State}
    (h : (walkAll visit n l p t s).state? = some s') (hf : p.framed) (hp : p.onPath l) : s'.walker.wf := by
  induction n generalizing l p t s with
  | zero => cases h
  | succ n ih =>
    have hadv : ∀ s1, (advance walkFuel l p s).state? = some s1 → s1.walker.wf :=
      fun _ h => advance_walker_wf h hf hp
    unfold walkAll at h
    split at h <;> rename_i e <;> rw [e] at hadv
    · cases h
    · cases h
      exact hadv _ rfl
    · cases h
      exact hadv _ rfl
    next r l' p' s1 =>
      have hw : s1.walker.wf := hadv s1 rfl
      have hvis := visitFrames_memStep hv hP (pageFrames r.size) r.firstFrame { t with records := t.records + 1 } s1
      split at h <;> rename_i e2 <;> rw [e2] at hvis
      · cases h
        have hsame : s'.walker = s1.walker := by rw [show s' = _ from hvis.frame]
        exact hsame ▸ hw
      · rw [advance_record e] at hw
        obtain ⟨hf', hp'⟩ := Walker.wf_active.mp hw
        exact ih h hf' hp'

theorem walkWhole_walker_wf {P : State → Word → Prop} {visit : Nat → Tally → State → Access Tally}
    (hv : VisitTouches P visit) (hP : WalkStable P) (hb : ∀ f t s, (visit f t s).BusOnly) {s t : State}
    (hh : s.halted = false) (h : walkWhole visit s = .next t) (hs : s.walker.wf) : t.walker.wf := by
  obtain ⟨hf, hp⟩ := Walker.wf_active.mp (Walker.wf_init s.args.v0)
  rcases walkWhole_cases (i := .walkMark) (R := fun _ s2 => s2.walker.wf)
    (fun _ h => walkAll_walker_wf hv hP h hf hp) hb hh h with
    ⟨_, rfl, _⟩ | ⟨_, _, rfl⟩ | ⟨s2, hw, ⟨_, _, rfl⟩ | ⟨_, _, rfl⟩⟩
  · exact hs
  · exact hs
  · exact hw
  · exact hw

theorem execWalkStart_walker_wf {s t : State} (h : execWalkStart s = .next t) (hs : s.walker.wf) : t.walker.wf := by
  rcases execWalkStart_cases h with ⟨_, rfl, _⟩ | ⟨_, ⟨_, _, rfl⟩ | rfl⟩
  · exact hs
  · exact hs
  · exact Walker.wf_init s.args.v0

theorem execWalkNext_walker_wf {s t : State} (h : execWalkNext s = .next t) (hs : s.walker.wf) : t.walker.wf := by
  rcases execWalkNext_cases h with ⟨_, rfl, _⟩ | ⟨_, ⟨_, _, rfl⟩ | ⟨l, p, hw, hend⟩⟩
  · exact hs
  · exact hs
  · rw [hw] at hs
    obtain ⟨hf, hp⟩ := Walker.wf_active.mp hs
    have hadv : ∀ s1, (advance walkFuel l p s).state? = some s1 → s1.walker.wf := fun _ h => advance_walker_wf h hf hp
    rcases hend with ⟨_, s1, e, rfl⟩ | ⟨s1, e, rfl⟩ | ⟨_, _, _, s1, e, rfl⟩
    all_goals exact hadv s1 (by rw [e]; rfl)

theorem execWalkMark_walker_wf {s t : State} (h : execWalkMark s = .next t) (hs : s.walker.wf) : t.walker.wf := by
  unfold execWalkMark at h
  split at h <;> rename_i hg
  · cases h
    exact hs
  · have hh : s.halted = false := by simpa [runsHalted] using (gate_passed hg).2
    exact walkWhole_walker_wf markFrame_memStep trackedByte_stable markFrame_busOnly hh h hs

theorem execWalkCheck_walker_wf {s t : State} (h : execWalkCheck s = .next t) (hs : s.walker.wf) : t.walker.wf := by
  unfold execWalkCheck at h
  split at h <;> rename_i hg
  · cases h
    exact hs
  · have hh : s.halted = false := by simpa [runsHalted] using (gate_passed hg).2
    exact walkWhole_walker_wf (fun f t s => (checkFrame_readStep f t s).memStepNone) nowhere_stable
      checkFrame_busOnly hh h hs

/-- Every command but RESET keeps what the invariant says of the walker. -/
theorem exec_walker_wf {i : Instr} {s t : State} (h : exec i s = .next t) (hr : i ≠ .reset) (hs : s.walker.wf) :
    t.walker.wf := by
  obtain ⟨s1, _, _, _, _, he, rfl, _⟩ := exec_effect h hr
  rcases he.walker with hsame | hi
  · exact hsame.symm ▸ hs
  · simp only [List.mem_cons, List.not_mem_nil, or_false] at hi
    rcases hi with rfl | rfl | rfl | rfl
    · exact execWalkStart_walker_wf h hs
    · exact execWalkNext_walker_wf h hs
    · exact execWalkMark_walker_wf h hs
    · exact execWalkCheck_walker_wf h hs

end Sys2Proof.Machine
end

section
/-! Every step keeps the invariant (O57). `State.Inv` falls into five parts, each kept by every command for a reason of
its own: canonical memory, the unused bits of the configuration registers, the order of the arena and the bitmap, what
LIFECYCLE, ARENA_VALID, HALTED and FAULT say of each other, and the walker (`Walker.wf`). -/

namespace Sys2Proof.Machine

/-- The unused bits of the configuration registers read 0 (10_state.md R32-R35). -/
structure State.ConfigClear (s : State) : Prop where
  ctrl : s.ctrl &&& ~~~0x3 = 0
  dmapOffset : s.dmapOffset &&& 0xFFF = 0
  mmapBase : s.mmapBase &&& 0x7 = 0
  addrWidths : s.addrWidths &&& ~~~0xFFFF = 0

/-- The cursor stands inside the arena, and the bitmap below the cursor (R38, R40, R42, 20_memory.md R84). -/
structure StorageOrdered (a : ArenaRegs) (b : BitmapRegs) : Prop where
  arena : a.base.toNat ≤ a.cursor.toNat ∧ a.cursor.toNat ≤ a.limit.toNat
  covers : b.bytes.toNat = (b.frameCount.toNat + 7) / 8
  bound : b.frameCount.toNat ≤ 2 ^ 53
  below : b.base.toNat + b.bytes.toNat ≤ a.cursor.toNat

/-- What LIFECYCLE, ARENA_VALID, HALTED and FAULT say of each other and of the bitmap (R39, R40, R309). -/
structure State.PhaseConsistent (s : State) : Prop where
  arenaUninit : s.arenaValid = true → s.lifecycle = .uninit
  bitmapUnset : s.lifecycle = .uninit → s.halted = false → s.bitmap = { base := 0, bytes := 0, frameCount := 0 }
  haltedByFault : s.halted = s.fault.code.isSome

theorem State.Inv.storage {s : State} (h : s.Inv) : StorageOrdered s.arena s.bitmap :=
  ⟨h.arenaOrder, h.bitmapCovers, h.frameBound, h.bitmapInArena⟩

theorem inv_iff_parts (s : State) :
    s.Inv ↔ s.mem.wf = true ∧ s.ConfigClear ∧ StorageOrdered s.arena s.bitmap ∧ s.PhaseConsistent ∧ s.walker.wf :=
  ⟨fun h => ⟨h.memCanonical, ⟨h.ctrlBits, h.offsetAligned, h.mapAligned, h.widthBits⟩,
      h.storage, ⟨h.arenaUninit, h.bitmapUnset, h.haltedByFault⟩, h.tablesAligned, h.walkerOnPath⟩,
    fun ⟨hm, hc, hst, hp, hw⟩ => ⟨hm, hc.ctrl, hc.dmapOffset, hc.mmapBase, hc.addrWidths, hst.arena, hp.arenaUninit,
      hst.covers, hst.bound, hst.below, hp.bitmapUnset, hp.haltedByFault, hw.1, hw.2⟩⟩

/-! ### Memory and the configuration registers -/

theorem exec_mem_wf {i : Instr} {s t : State} (h : exec i s = .next t) (hr : i ≠ .reset) (hs : s.mem.wf = true) :
    t.mem.wf = true := by
  obtain ⟨s1, _, _, _, _, he, rfl, _⟩ := exec_effect h hr
  exact he.wf hs

theorem SameConfig.configClear {s s1 : State} (h : SameConfig s s1) (hs : s.ConfigClear) : s1.ConfigClear := by
  obtain ⟨hctrl, hoff, hmap, _, hw, _⟩ := h
  exact ⟨hctrl ▸ hs.ctrl, hoff ▸ hs.dmapOffset, hmap ▸ hs.mmapBase, hw ▸ hs.addrWidths⟩

/-- WRITEVAL clears the unused bits (45_control.md R272). -/
theorem writeCsr_configClear {s : State} (hs : s.ConfigClear) (c : Csr) (v : Word) : (s.writeCsr c v).ConfigClear := by
  cases c
  case ctrl => exact { hs with ctrl := and_mask_and_eq_zero v (by decide) }
  case dmapOffset => exact { hs with dmapOffset := and_mask_and_eq_zero v (by decide) }
  case mmapBase => exact { hs with mmapBase := and_mask_and_eq_zero v (by decide) }
  case addrWidths => exact { hs with addrWidths := and_mask_and_eq_zero v (by decide) }
  all_goals exact { hs with }

theorem exec_configClear {i : Instr} {s t : State} (h : exec i s = .next t) (hr : i ≠ .reset) (hs : s.ConfigClear) :
    t.ConfigClear := by
  obtain ⟨s1, _, _, _, _, he, rfl, _⟩ := exec_effect h hr
  rcases he.config with hsame | rfl
  · exact { hsame.configClear hs with }
  · rcases execCsrWrite_cases h with ⟨_, e, _⟩ | ⟨_, c, _, _, e⟩ <;> rw [e]
    · exact { hs with }
    · exact { writeCsr_configClear hs c s.args.v1 with }

/-! ### The arena and the bitmap -/

/-- A fresh arena, while no bitmap is set (41_bootstrap_arena.md R161). -/
theorem StorageOrdered.ofFind {start size : Nat} (h : start + size ≤ 2 ^ 64 - 1) :
    StorageOrdered
      { base := BitVec.ofNat 64 start, limit := BitVec.ofNat 64 (start + size), cursor := BitVec.ofNat 64 start }
      { base := 0, bytes := 0, frameCount := 0 } := by
  refine ⟨?_, rfl, Nat.zero_le _, Nat.zero_le _⟩
  simp only [BitVec.toNat_ofNat]
  omega

/-- The cursor moved past a region taken from the arena (41_bootstrap_arena.md R163). -/
theorem StorageOrdered.ofTake {a : ArenaRegs} {b : BitmapRegs} (h : StorageOrdered a b) {start size : Nat}
    (h1 : a.cursor.toNat ≤ start) (h2 : start + size ≤ a.limit.toNat) :
    StorageOrdered { a with cursor := BitVec.ofNat 64 (start + size) } b := by
  have harena := h.arena
  have hbelow := h.below
  have hlimit := a.limit.isLt
  have hcursor : (BitVec.ofNat 64 (start + size)).toNat = start + size := by
    rw [BitVec.toNat_ofNat, Nat.mod_eq_of_lt (by omega)]
  refine ⟨?_, h.covers, h.bound, ?_⟩ <;> dsimp only <;> rw [hcursor] <;> omega

/-- The bitmap registers of a build, whose storage ends at the cursor (42_bitmap_builder.md R180, R182). -/
theorem StorageOrdered.ofBuild {a : ArenaRegs} {b : BitmapRegs} (h : StorageOrdered a b) {start frames : Nat}
    (h1 : a.cursor.toNat ≤ start) (h2 : start + ceilDiv frames 8 ≤ a.limit.toNat) (h3 : frames ≤ 2 ^ 53) :
    StorageOrdered { a with cursor := BitVec.ofNat 64 (start + ceilDiv frames 8) }
      { base := BitVec.ofNat 64 start, bytes := BitVec.ofNat 64 (ceilDiv frames 8)
        frameCount := BitVec.ofNat 64 frames } := by
  have hlimit := a.limit.isLt
  have harena := (h.ofTake h1 h2).arena
  have hceil : ceilDiv frames 8 = (frames + 7) / 8 := rfl
  refine ⟨harena, ?_, ?_, ?_⟩ <;> simp only [BitVec.toNat_ofNat] <;> omega

theorem execArenaFind_storage {s t : State} (h : execArenaFind s = .next t) (hs : s.Inv) :
    StorageOrdered t.arena t.bitmap := by
  rcases execArenaFind_cases h with
    ⟨_, rfl, _⟩ | ⟨hh, hu, _, s1, hread, ⟨_, _, rfl⟩ | ⟨mm, start, k, _, hfind, rfl⟩⟩
  · exact hs.storage
  · rw [hread]
    exact hs.storage
  · have hb : s1.bitmap = { base := 0, bytes := 0, frameCount := 0 } := by
      rw [hread]
      exact hs.bitmapUnset hu hh
    simp only [finish_arena, finish_bitmap, setArena_arena, setArena_bitmap, hb]
    exact .ofFind (findArena_fits hfind)

theorem execArenaAlloc_storage {s t : State} (h : execArenaAlloc s = .next t)
    (hst : StorageOrdered s.arena s.bitmap) : StorageOrdered t.arena t.bitmap := by
  rcases execArenaAlloc_cases h with ⟨_, rfl, _⟩ | ⟨_, _, _, start, h1, h2, rfl⟩
  · exact hst
  · exact hst.ofTake h1 h2

theorem execBitmapBuild_storage {s t : State} (h : execBitmapBuild s = .next t)
    (hst : StorageOrdered s.arena s.bitmap) : StorageOrdered t.arena t.bitmap := by
  rcases execBitmapBuild_cases h with
    ⟨_, rfl, _⟩ | ⟨_, _, _, s1, hread, ⟨_, _, rfl⟩ | ⟨mm, start, s3, _, h1, h2, hwrite, hend⟩⟩
  · exact hst
  · rw [hread]
    exact hst
  · have hs3 : StorageOrdered s3.arena s3.bitmap := by
      rw [hwrite.frame, hread]
      exact hst.ofBuild h1 h2 (mapFrames_le mm)
    rcases hend with ⟨_, _, rfl⟩ | ⟨_, rfl⟩
    · exact hs3
    · exact hs3

theorem exec_storage {i : Instr} {s t : State} (h : exec i s = .next t) (hr : i ≠ .reset) (hs : s.Inv) :
    StorageOrdered t.arena t.bitmap := by
  by_cases hi : i = .arenaFind ∨ i = .arenaAlloc ∨ i = .bitmapBuild
  · rcases hi with rfl | rfl | rfl
    · exact execArenaFind_storage h hs
    · exact execArenaAlloc_storage h hs.storage
    · exact execBitmapBuild_storage h hs.storage
  · obtain ⟨hfind, halloc, hbuild⟩ : i ≠ .arenaFind ∧ i ≠ .arenaAlloc ∧ i ≠ .bitmapBuild := by simpa using hi
    obtain ⟨_, _, _, _, hbitmap, _⟩ := registerOwners i s t h hr
    rw [(arenaOnlyBumps i s t h hr).2 hfind halloc hbuild, hbitmap hbuild]
    exact hs.storage

/-! ### The lifecycle and the fatal fault -/

theorem exec_arenaUninit {i : Instr} {s t : State} (h : exec i s = .next t) (hr : i ≠ .reset)
    (hs : s.arenaValid = true → s.lifecycle = .uninit) : t.arenaValid = true → t.lifecycle = .uninit := by
  obtain ⟨s1, _, _, _, _, he, rfl, _⟩ := exec_effect h hr
  show s1.arenaValid = true → s1.lifecycle = .uninit
  intro hv
  have hu : s.lifecycle = .uninit := by
    rcases he.arenaValid with hsame | ⟨_, _, hu, _⟩ | ⟨_, hf⟩
    · exact hs (hsame ▸ hv)
    · exact hu
    · exact absurd (hf ▸ hv) (by decide)
  rcases he.lifecycle with hsame | ⟨_, hl, _⟩ | ⟨_, hl, _⟩ | ⟨_, _, _, _, hf⟩
  · exact hsame.trans hu
  · exact absurd (hu ▸ hl) (by decide)
  · exact absurd (hu ▸ hl) (by decide)
  · exact absurd (hf ▸ hv) (by decide)

/-- LIFECYCLE is UNINIT after a command only if it was so before. -/
theorem Effect.uninit_of_uninit {i : Instr} {s s1 : State} (he : Effect i s s1) (h : s1.lifecycle = .uninit) :
    s.lifecycle = .uninit := by
  rcases he.lifecycle with hsame | ⟨_, _, hl⟩ | ⟨_, _, hl⟩ | ⟨_, _, _, hl, _⟩
  · exact hsame ▸ h
  all_goals cases hl.symm.trans h

/-- A BITMAP_BUILD that leaves LIFECYCLE at UNINIT without halting the block has set no bitmap register. -/
theorem execBitmapBuild_bitmap {s t : State} (h : execBitmapBuild s = .next t) (hu : t.lifecycle = .uninit)
    (hh : t.halted = false) : t.bitmap = s.bitmap := by
  rcases execBitmapBuild_cases h with
    ⟨_, rfl, _⟩ | ⟨_, _, _, s1, _, ⟨_, _, rfl⟩ | ⟨_, _, _, _, _, _, _, ⟨_, _, rfl⟩ | ⟨_, rfl⟩⟩⟩
  · rfl
  · cases hh
  · cases hh
  · cases hu

theorem exec_phase {i : Instr} {s t : State} (h : exec i s = .next t) (hr : i ≠ .reset) (hs : s.PhaseConsistent) :
    t.PhaseConsistent := by
  have hvalid := exec_arenaUninit h hr hs.arenaUninit
  have hbuild : i = .bitmapBuild → t.lifecycle = .uninit → t.halted = false → t.bitmap = s.bitmap := by
    rintro rfl
    exact execBitmapBuild_bitmap h
  obtain ⟨s1, _, _, hl, f, he, rfl, hend⟩ := exec_effect h hr
  refine ⟨hvalid, fun hu hh => ?_, ?_⟩
  · have hsame : s1.bitmap = s.bitmap := he.bitmap.elim id fun hi => hbuild hi hu hh
    rcases hend with ⟨rfl, _⟩ | ⟨rfl, _⟩
    · exact hsame.trans (hs.bitmapUnset (he.uninit_of_uninit hu) hh)
    · cases hh
  · rcases hend with ⟨rfl, rfl⟩ | ⟨rfl, hf⟩
    · exact hs.haltedByFault
    · exact hf.symm

/-! ### The steps -/

theorem configClear_reset : State.reset.ConfigClear := ⟨by decide, by decide, by decide, by decide⟩

theorem storageOrdered_reset : StorageOrdered State.reset.arena State.reset.bitmap :=
  ⟨by decide, by decide, by decide, by decide⟩

/-- RESET and the reset input: registers at their reset values over a canonical memory (70_reset_and_hazards.md R330,
R331). -/
theorem resetBlock_inv {s : State} (hs : s.mem.wf = true) : (resetBlock s).Inv :=
  (inv_iff_parts _).mpr
    ⟨hs, { configClear_reset with }, storageOrdered_reset, ⟨nofun, fun _ _ => rfl, rfl⟩, Walker.wf_idle⟩

/-- Every command keeps the invariant. -/
theorem exec_inv {i : Instr} {s t : State} (hs : s.Inv) (h : exec i s = .next t) : t.Inv := by
  by_cases hr : i = .reset
  · subst hr
    cases (execReset_eq s).symm.trans h
    exact resetBlock_inv hs.memCanonical
  · obtain ⟨hmem, hconfig, _, hphase, hwalker⟩ := (inv_iff_parts s).mp hs
    exact (inv_iff_parts t).mpr ⟨exec_mem_wf h hr hmem, exec_configClear h hr hconfig, exec_storage h hr hs,
      exec_phase h hr hphase, exec_walker_wf h hr hwalker⟩

/-- The invariant says nothing of the operands, the response and the events to come, and of memory only its form. -/
theorem State.Inv.outside {s : State} (hs : s.Inv) (args res : Quad) (st : Status) (answers : List PortAnswer)
    (inputs : List Input) {m : Memory} (hm : m.wf = true) :
    ({ s with args := args, res := res, status := st, answers := answers, inputs := inputs, mem := m } : State).Inv :=
  { hs with memCanonical := hm }

/-- Settles O57, by the event that the step takes. -/
theorem stepKeepsInv : Obligations.StepKeepsInv := by
  intro s t hs h
  match hin : s.inputs with
  | [] =>
    rw [step_of_noInput hin] at h
    cases h
    exact hs
  | .resetLine :: rest =>
    rw [step_of_resetLine hin] at h
    cases h
    exact resetBlock_inv hs.memCanonical
  | .store a b :: rest =>
    rw [step_of_store hin] at h
    cases h
    exact hs.outside _ _ _ _ _ (Memory.write_wf hs.memCanonical a b)
  | .command r :: rest =>
    have hacc : ({ s with args := r.args, answers := r.answers, inputs := rest } : State).Inv :=
      hs.outside _ _ _ _ _ hs.memCanonical
    match hd : decode r.cmd with
    | .ok i =>
      rw [step_of_decoded hin hd] at h
      exact exec_inv hacc h
    | .error e =>
      rw [step_of_illegal hin hd] at h
      cases h
      exact hacc.outside _ _ _ _ _ hacc.memCanonical

end Sys2Proof.Machine
end

section
/-! How a part of a command uses the port's answers (20_memory.md R75, R78, R81). `Served n`: n accesses were made and
none was answered with an error; `Stopped n`: access number n, counted from 0, was the first error. `Access.Port` says
of a part that accesses memory which of the two it ends in, and at which access it can stop. -/

namespace Sys2Proof.Machine

/-- n accesses were made, and the port answered none of them with an error. -/
structure Served (n : Nat) (s s' : State) : Prop where
  answers : s'.answers = s.answers.drop n
  config : s'.config = s.config
  noError : s.config.portCanError = true → ∀ y, .error y ∉ s.answers.take n

/-- The port answered access number n with an error, and no access before it. -/
structure Stopped (n : Nat) (s s' : State) : Prop where
  canError : s.config.portCanError = true
  noError : ∀ y, .error y ∉ s.answers.take n
  atError : ∃ left, s.answers.drop n = .error left :: s'.answers

/-- How many accesses a completed part has made (`count`), and at which access number, port address and direction it
can stop (`site`). -/
def Access.Port {α : Type} (x : Access α) (s : State) (count : Nat → Prop) (site : Nat → Word → Bool → Prop) : Prop :=
  match x with
  | .ok _ s' => ∃ n, count n ∧ Served n s s'
  | .fatal f s' => ∃ n a w, Stopped n s s' ∧ f = busError a w ∧ site n a w

theorem Served.refl (s : State) : Served 0 s s := ⟨rfl, rfl, fun _ _ => List.not_mem_nil⟩

theorem Served.noError_append {n m : Nat} {s s' : State} (h : Served n s s') (hc : s.config.portCanError = true)
    (hm : ∀ y, .error y ∉ s'.answers.take m) (y : Byte) : .error y ∉ s.answers.take (n + m) := by
  rw [List.take_add, ← h.answers, List.mem_append, not_or]
  exact ⟨h.noError hc y, hm y⟩

theorem Served.trans {n m : Nat} {s s' s'' : State} (h : Served n s s') (h' : Served m s' s'') :
    Served (n + m) s s'' := by
  refine ⟨?_, h'.config.trans h.config, fun hc => h.noError_append hc (h'.noError (h.config ▸ hc))⟩
  rw [h'.answers, h.answers, List.drop_drop]

theorem Served.stopped {n m : Nat} {s s' s'' : State} (h : Served n s s') (h' : Stopped m s' s'') :
    Stopped (n + m) s s'' := by
  have hc : s.config.portCanError = true := h.config ▸ h'.canError
  refine ⟨hc, h.noError_append hc h'.noError, ?_⟩
  rw [← List.drop_drop, ← h.answers]
  exact h'.atError

/-- The part of the state the port's answers depend on is all that counts. -/
theorem Served.congr_right {n : Nat} {s s' s'' : State} (h : Served n s s') (ha : s''.answers = s'.answers)
    (hc : s''.config = s'.config) : Served n s s'' :=
  ⟨ha.trans h.answers, hc.trans h.config, h.noError⟩

theorem Stopped.congr_right {n : Nat} {s s' s'' : State} (h : Stopped n s s') (ha : s''.answers = s'.answers) :
    Stopped n s s'' :=
  ⟨h.canError, h.noError, ha ▸ h.atError⟩

theorem Served.congr_left {n : Nat} {s s' r : State} (h : Served n r s') (ha : r.answers = s.answers)
    (hc : r.config = s.config) : Served n s s' :=
  ⟨ha ▸ h.answers, hc ▸ h.config, hc ▸ ha ▸ h.noError⟩

theorem Stopped.congr_left {n : Nat} {s s' r : State} (h : Stopped n r s') (ha : r.answers = s.answers)
    (hc : r.config = s.config) : Stopped n s s' :=
  ⟨hc ▸ h.canError, ha ▸ h.noError, ha ▸ h.atError⟩

/-- The first error of a list of answers is met at its place, and nowhere else. -/
theorem Stopped.first_error {n : Nat} {s s' : State} {before rest : List PortAnswer} {x : Byte} (h : Stopped n s s')
    (hs : s.answers = before ++ .error x :: rest) (hb : ∀ y, .error y ∉ before) :
    n = before.length ∧ s'.answers = rest := by
  obtain ⟨left, hd⟩ := h.atError
  have hno := h.noError
  rw [hs] at hd hno
  rcases Nat.lt_trichotomy n before.length with hlt | rfl | hgt
  · rw [List.drop_append_of_le_length hlt.le] at hd
    have hmem : .error left ∈ before.drop n := by
      rw [List.drop_eq_getElem_cons hlt, List.cons_append, List.cons.injEq] at hd
      rw [List.drop_eq_getElem_cons hlt, hd.1]
      exact List.mem_cons_self
    exact absurd (List.mem_of_mem_drop hmem) (hb left)
  · rw [List.drop_left, List.cons.injEq] at hd
    exact ⟨rfl, hd.2.symm⟩
  · refine absurd ?_ (hno x)
    rw [List.take_append, List.take_cons (by omega)]
    simp

/-- A part that is served does not get past the first error. -/
theorem Served.le_first_error {n : Nat} {s s' : State} {before rest : List PortAnswer} {x : Byte} (h : Served n s s')
    (hc : s.config.portCanError = true) (hs : s.answers = before ++ .error x :: rest) : n ≤ before.length := by
  by_contra hgt
  refine absurd ?_ (h.noError hc x)
  rw [hs, List.take_append, List.take_cons (by omega)]
  simp

/-! ### One access -/

/-- All the next answer can do to an access: end it with an error, or serve it. -/
theorem nextAnswer_cases (s : State) :
    (∃ left, s.nextAnswer = .error left ∧ Stopped 0 s s.dropAnswer)
      ∨ ((∀ left, s.nextAnswer ≠ .error left) ∧ Served 1 s s.dropAnswer) := by
  unfold State.nextAnswer
  cases ha : s.answers with
  | nil => exact .inr ⟨nofun, ⟨(dropAnswer_answers s).trans List.drop_one.symm, rfl, fun _ _ => by simp [ha]⟩⟩
  | cons a rest =>
    cases a with
    | normal => exact .inr ⟨nofun, ⟨(dropAnswer_answers s).trans List.drop_one.symm, rfl, fun _ _ => by simp [ha]⟩⟩
    | raced v => exact .inr ⟨nofun, ⟨(dropAnswer_answers s).trans List.drop_one.symm, rfl, fun _ _ => by simp [ha]⟩⟩
    | error left =>
      cases hc : s.config.portCanError with
      | true => exact .inl ⟨left, rfl, ⟨hc, fun _ => List.not_mem_nil, left, by simp [State.dropAnswer, ha]⟩⟩
      | false => exact .inr ⟨nofun, ⟨(dropAnswer_answers s).trans List.drop_one.symm, rfl, fun h => by rw [hc] at h; cases h⟩⟩

/-- The only access of a part that makes one access. -/
def onlyAccess (a : Word) (w : Bool) (n : Nat) (b : Word) (v : Bool) : Prop := n = 0 ∧ b = a ∧ v = w

theorem readByte_port (a : Word) (s : State) : (readByte a s).Port s (· = 1) (onlyAccess a false) := by
  unfold readByte
  rcases nextAnswer_cases s with ⟨left, h, hst⟩ | ⟨h, hsv⟩
  · rw [h]
    exact ⟨0, a, false, hst, rfl, rfl, rfl, rfl⟩
  · split
    · exact ⟨1, rfl, hsv⟩
    · exact ⟨1, rfl, hsv⟩
    next left e => exact absurd e (h left)

theorem readWord_port (a : Word) (s : State) : (readWord a s).Port s (· = 1) (onlyAccess a false) := by
  unfold readWord
  rcases nextAnswer_cases s with ⟨left, h, hst⟩ | ⟨h, hsv⟩
  · rw [h]
    exact ⟨0, a, false, hst, rfl, rfl, rfl, rfl⟩
  · split
    · exact ⟨1, rfl, hsv⟩
    · exact ⟨1, rfl, hsv⟩
    next left e => exact absurd e (h left)

theorem writeByte_port (a : Word) (b : Byte) (s : State) : (writeByte a b s).Port s (· = 1) (onlyAccess a true) := by
  unfold writeByte
  rcases nextAnswer_cases s with ⟨left, h, hst⟩ | ⟨h, hsv⟩
  · rw [h]
    exact ⟨0, a, true, hst.congr_right rfl, rfl, rfl, rfl, rfl⟩
  · split
    · exact ⟨1, rfl, hsv.congr_right rfl rfl⟩
    · exact ⟨1, rfl, hsv.congr_right rfl rfl⟩
    next left e => exact absurd e (h left)

/-! ### Parts put together -/

section
variable {α β : Type} {s s1 : State} {c d : Nat → Prop} {P Q : Nat → Word → Bool → Prop}

/-- A part with a fixed number of accesses, completed. -/
theorem Access.Port.ok {x : Access α} {n : Nat} {b : α} (h : x.Port s (· = n) P) (e : x = .ok b s1) :
    Served n s s1 := by
  rw [e] at h
  obtain ⟨_, rfl, hsv⟩ := h
  exact hsv

/-- A part that stopped stops what it is a part of. -/
theorem Access.Port.stop {x : Access α} {f : FatalFault} (h : x.Port s c P) (e : x = .fatal f s1)
    (hPQ : ∀ n a w, P n a w → Q n a w) : (Access.fatal f s1 : Access β).Port s d Q := by
  rw [e] at h
  obtain ⟨n, a, w, hst, hf, hP⟩ := h
  exact ⟨n, a, w, hst, hf, hPQ n a w hP⟩

/-- A part that stopped after n accesses. -/
theorem Access.Port.stopAfter {x : Access α} {s2 : State} {f : FatalFault} {n : Nat} (h : x.Port s1 c P)
    (e : x = .fatal f s2) (hsv : Served n s s1) (hPQ : ∀ m a w, P m a w → Q (n + m) a w) :
    (Access.fatal f s2 : Access β).Port s d Q := by
  rw [e] at h
  obtain ⟨m, a, w, hst, hf, hP⟩ := h
  exact ⟨n + m, a, w, hsv.stopped hst, hf, hPQ m a w hP⟩

/-- A part that follows n accesses. -/
theorem Access.Port.after {x : Access α} {n : Nat} (h : x.Port s1 c P) (hsv : Served n s s1)
    (hcd : ∀ m, c m → d (n + m)) (hPQ : ∀ m a w, P m a w → Q (n + m) a w) : x.Port s d Q := by
  cases x with
  | ok b s2 =>
    obtain ⟨m, hm, hsv'⟩ := h
    exact ⟨n + m, hcd m hm, hsv.trans hsv'⟩
  | fatal f s2 =>
    obtain ⟨m, a, w, hst, hf, hP⟩ := h
    exact ⟨n + m, a, w, hsv.stopped hst, hf, hPQ m a w hP⟩

end

/-! ### The memory map -/

theorem ReadStep.entryAddr_eq {s s' : State} (h : ReadStep s s') (k : Nat) : s'.entryAddr k = s.entryAddr k := by
  rw [h]
  rfl

/-- Access number m of a read of the map from entry k on is of this word (20_memory.md R70, R71). -/
def State.mapWordAt (s : State) (k n m : Nat) (a : Word) (w : Bool) : Prop :=
  m < 3 * n ∧ a = s.entryAddr (k + m / 3) + BitVec.ofNat 64 (8 * (m % 3)) ∧ w = false

theorem readEntry_port (k : Nat) (s : State) : (readEntry k s).Port s (· = 3) (s.mapWordAt k 1) := by
  have h1 := readWord_port (s.entryAddr k) s
  unfold readEntry
  split
  next e =>
    refine h1.stop e ?_
    rintro _ _ _ ⟨rfl, rfl, rfl⟩
    exact ⟨by omega, by simp, rfl⟩
  next s1 e1 =>
    have h2 := readWord_port (s.entryAddr k + 8) s1
    split
    next e =>
      refine h2.stopAfter e (h1.ok e1) ?_
      rintro _ _ _ ⟨rfl, rfl, rfl⟩
      exact ⟨by omega, rfl, rfl⟩
    next s2 e2 =>
      have h3 := readWord_port (s.entryAddr k + 16) s2
      have hsv := (h1.ok e1).trans (h2.ok e2)
      split
      next e =>
        refine h3.stopAfter e hsv ?_
        rintro _ _ _ ⟨rfl, rfl, rfl⟩
        exact ⟨by omega, rfl, rfl⟩
      next e3 => exact ⟨3, rfl, hsv.trans (h3.ok e3)⟩

theorem readEntries_port (n k : Nat) (acc : List MapEntry) (s : State) :
    (readEntries n k acc s).Port s (· = 3 * n) (s.mapWordAt k n) := by
  induction n generalizing k acc s with
  | zero => exact ⟨0, rfl, .refl s⟩
  | succ n ih =>
    have h1 := readEntry_port k s
    have hr := readEntry_readStep k s
    unfold readEntries
    split
    next e =>
      refine h1.stop e ?_
      rintro m a w ⟨hm, ha, hw⟩
      exact ⟨by omega, ha, hw⟩
    next x s1 e =>
      rw [e] at hr
      refine (ih (k + 1) (x :: acc) s1).after (h1.ok e) (by omega) ?_
      rintro m a w ⟨hm, ha, hw⟩
      refine ⟨by omega, ?_, hw⟩
      rw [ha, ReadStep.entryAddr_eq (s' := s1) hr, show k + 1 + m / 3 = k + (3 + m) / 3 by omega, show m % 3 = (3 + m) % 3 by omega]

theorem snapshot_port (s : State) :
    (snapshot s).Port s (· = 3 * s.mmapCount.toNat) (s.mapWordAt 0 s.mmapCount.toNat) :=
  readEntries_port _ _ _ _

/-! ### The loops over the bitmap -/

/-- Access number m of a loop over bitmap bytes j, .., j + n - 1, one access each, is of this byte. -/
def State.bitmapByteAt (s : State) (dir : Bool) (j n m : Nat) (a : Word) (w : Bool) : Prop :=
  m < n ∧ a = s.bitmapAddr (j + m) ∧ w = dir

/-- The first byte of such a loop. -/
theorem State.bitmapByteAt_first {s : State} {dir : Bool} {j n m : Nat} {a : Word} {w : Bool}
    (h : onlyAccess (s.bitmapAddr j) dir m a w) : s.bitmapByteAt dir j (n + 1) m a w := by
  obtain ⟨rfl, rfl, rfl⟩ := h
  exact ⟨by omega, rfl, rfl⟩

/-- The bytes after the first. -/
theorem State.bitmapByteAt_next {P : Word → Prop} {s s1 : State} (hs : MemStep P s s1) {dir : Bool} {j n m : Nat}
    {a : Word} {w : Bool} (h : s1.bitmapByteAt dir (j + 1) n m a w) : s.bitmapByteAt dir j (n + 1) (1 + m) a w := by
  obtain ⟨hm, rfl, rfl⟩ := h
  exact ⟨by omega, by rw [hs.bitmapAddr_eq, Nat.add_assoc], rfl⟩

theorem buildBytes_port (p : BuildPlan) (n j free : Nat) (s : State) :
    (buildBytes p n j free s).Port s (· = n) (s.bitmapByteAt true j n) := by
  induction n generalizing j free s with
  | zero => exact ⟨0, rfl, .refl s⟩
  | succ n ih =>
    have h1 := writeByte_port (s.bitmapAddr j) (p.byte j) s
    have hm := writeByte_memStep (s.bitmapAddr j) (p.byte j) s
    unfold buildBytes
    split
    next e => exact h1.stop e fun _ _ _ => State.bitmapByteAt_first
    next s1 e =>
      rw [e] at hm
      exact (ih _ _ s1).after (h1.ok e) (by omega) fun _ _ _ => State.bitmapByteAt_next hm

theorem countFree_port (n j free : Nat) (s : State) :
    (countFree n j free s).Port s (· = n) (s.bitmapByteAt false j n) := by
  induction n generalizing j free s with
  | zero => exact ⟨0, rfl, .refl s⟩
  | succ n ih =>
    have h1 := readByte_port (s.bitmapAddr j) s
    have hm := (readByte_readStep (s.bitmapAddr j) s).memStepNone
    unfold countFree
    split
    next e => exact h1.stop e fun _ _ _ => State.bitmapByteAt_first
    next s1 e =>
      rw [e] at hm
      exact (ih _ _ s1).after (h1.ok e) (by omega) fun _ _ _ => State.bitmapByteAt_next hm

/-- Access number m of the scan of FRAME_ALLOC is the read of byte j + m, or the write of the byte read last
(44_frame_allocator.md R240). -/
def State.scanByteAt (s : State) (j n m : Nat) (a : Word) (w : Bool) : Prop :=
  s.bitmapByteAt false j n m a w ∨ (0 < m ∧ s.bitmapByteAt true j n (m - 1) a w)

theorem scanFree_port (n j : Nat) (s : State) :
    (scanFree n j s).Port s (fun _ => True) (s.scanByteAt j n) := by
  induction n generalizing j s with
  | zero => exact ⟨0, trivial, .refl s⟩
  | succ n ih =>
    have h1 := readByte_port (s.bitmapAddr j) s
    have hm := (readByte_readStep (s.bitmapAddr j) s).memStepNone
    unfold scanFree
    split
    next e => exact h1.stop e fun _ _ _ h => .inl (State.bitmapByteAt_first h)
    next b s1 e =>
      rw [e] at hm
      have later : (scanFree n (j + 1) s1).Port s (fun _ => True) (s.scanByteAt j (n + 1)) := by
        refine (ih (j + 1) s1).after (h1.ok e) (fun _ h => h) fun m a w h => ?_
        rcases h with h | ⟨hpos, h⟩
        · exact .inl (State.bitmapByteAt_next hm h)
        · obtain ⟨k, rfl⟩ : ∃ k, m = k + 1 := ⟨m - 1, by omega⟩
          refine .inr ⟨by omega, ?_⟩
          rw [show 1 + (k + 1) - 1 = 1 + k by omega]
          exact State.bitmapByteAt_next hm h
      split
      · exact later
      · split
        · exact later
        next k _ =>
          have h2 := writeByte_port (s.bitmapAddr j) (setBit b k) s1
          split
          next e2 =>
            refine h2.stopAfter e2 (h1.ok e) ?_
            rintro _ a w ⟨rfl, rfl, rfl⟩
            exact .inr ⟨by omega, by omega, rfl, rfl⟩
          next e2 => exact ⟨2, trivial, (h1.ok e).trans (h2.ok e2)⟩

/-- An access of FRAME_FREE's loop is of a byte of its frames, the first one a read of the first frame's byte
(44_frame_allocator.md R242). -/
def State.freeByteAt (s : State) (f n m : Nat) (a : Word) (w : Bool) : Prop :=
  s.frameBytesBetween f n a ∧ (m = 0 → w = false ∧ a = s.frameByteAddr f)

theorem freeFrames_port (n f cleared : Nat) (s : State) :
    (freeFrames n f cleared s).Port s (fun _ => True) (s.freeByteAt f n) := by
  induction n generalizing f cleared s with
  | zero => exact ⟨0, trivial, .refl s⟩
  | succ n ih =>
    have h1 := readByte_port (s.frameByteAddr f) s
    have hm := (readByte_readStep (s.frameByteAddr f) s).memStepNone
    have hf : s.frameBytesBetween f (n + 1) (s.frameByteAddr f) := ⟨f, by omega, by omega, rfl⟩
    have later : ∀ {P m s2} (c : Nat), 0 < m → Served m s s2 → MemStep P s s2 →
        (freeFrames n (f + 1) c s2).Port s (fun _ => True) (s.freeByteAt f (n + 1)) := by
      refine fun c hpos hsv hs => (ih (f + 1) c _).after hsv (fun _ h => h) ?_
      rintro _ a _ ⟨⟨g, hg1, hg2, rfl⟩, _⟩
      exact ⟨⟨g, by omega, by omega, hs.frameByteAddr_eq g⟩, by omega⟩
    unfold freeFrames
    split
    next e =>
      refine h1.stop e ?_
      rintro _ _ _ ⟨_, rfl, rfl⟩
      exact ⟨hf, fun _ => ⟨rfl, rfl⟩⟩
    next b s1 e =>
      rw [e] at hm
      split
      · have h2 := writeByte_port (s.frameByteAddr f) (clearBit b (f % 8)) s1
        have hm2 := writeByte_memStep (s.frameByteAddr f) (clearBit b (f % 8)) s1
        split
        next e2 =>
          refine h2.stopAfter e2 (h1.ok e) ?_
          rintro m _ _ ⟨_, rfl, _⟩
          exact ⟨hf, by omega⟩
        next s2 e2 =>
          rw [e2] at hm2
          exact later _ (by omega) ((h1.ok e).trans (h2.ok e2)) ((hm.mono nofun).trans hm2)
      · exact later _ (by omega) (h1.ok e) hm

/-! ### The walks -/

/-- What a visit of a frame may access: the byte of a tracked frame, for `readOnly` visits in a read. -/
def State.visitSite (readOnly : Bool) (s : State) (a : Word) (w : Bool) : Prop :=
  (readOnly = true → w = false) ∧ s.trackedByte a

theorem State.visitSite_of_step {P : Word → Prop} {s s1 : State} (h : WalkMemStep P s s1) {readOnly w : Bool} {a : Word}
    (ha : s1.visitSite readOnly a w) : s.visitSite readOnly a w :=
  ⟨ha.1, trackedByte_stable _ _ _ h a ha.2⟩

theorem markFrame_port (f : Nat) (t : Tally) (s : State) :
    (markFrame f t s).Port s (fun _ => True) (fun _ a w => s.visitSite false a w) := by
  unfold markFrame
  split
  · exact ⟨0, trivial, .refl s⟩
  next hf =>
    have here : ∀ {dir m a w}, onlyAccess (s.frameByteAddr f) dir m a w → s.visitSite false a w := by
      rintro _ _ _ _ ⟨_, rfl, _⟩
      exact ⟨nofun, f, by omega, rfl⟩
    have h1 := readByte_port (s.frameByteAddr f) s
    split
    next e => exact h1.stop e fun _ _ _ => here
    next b s1 e =>
      split
      · exact ⟨1, trivial, h1.ok e⟩
      · have h2 := writeByte_port (s.frameByteAddr f) (setBit b (f % 8)) s1
        split
        next e2 => exact h2.stopAfter e2 (h1.ok e) fun _ _ _ => here
        next e2 => exact ⟨2, trivial, (h1.ok e).trans (h2.ok e2)⟩

theorem checkFrame_port (f : Nat) (t : Tally) (s : State) :
    (checkFrame f t s).Port s (fun _ => True) (fun _ a w => s.visitSite true a w) := by
  unfold checkFrame
  split
  · exact ⟨0, trivial, .refl s⟩
  next hf =>
    have h1 := readByte_port (s.frameByteAddr f) s
    split
    next e =>
      refine h1.stop e ?_
      rintro _ _ _ ⟨_, rfl, rfl⟩
      exact ⟨fun _ => rfl, f, by omega, rfl⟩
    next b s1 e => exact ⟨1, trivial, h1.ok e⟩

/-- A visit accesses what `visitSite` says and stores to bytes of tracked frames only. -/
structure VisitPort (readOnly : Bool) (visit : Nat → Tally → State → Access Tally) : Prop where
  port : ∀ f t s, (visit f t s).Port s (fun _ => True) (fun _ a w => s.visitSite readOnly a w)
  touches : VisitTouches State.trackedByte visit

theorem markFrame_visitPort : VisitPort false markFrame := ⟨markFrame_port, markFrame_memStep⟩

theorem checkFrame_visitPort : VisitPort true checkFrame :=
  ⟨checkFrame_port, fun f t s => (checkFrame_readStep f t s).memStep⟩

theorem visitFrames_port {readOnly : Bool} {visit : Nat → Tally → State → Access Tally} (hv : VisitPort readOnly visit)
    (n f : Nat) (t : Tally) (s : State) :
    (visitFrames visit n f t s).Port s (fun _ => True) (fun _ a w => s.visitSite readOnly a w) := by
  induction n generalizing f t s with
  | zero => exact ⟨0, trivial, .refl s⟩
  | succ n ih =>
    have h1 := hv.port f t s
    have hm := hv.touches f t s
    unfold visitFrames
    split
    next e => exact h1.stop e fun _ _ _ h => h
    next t1 s1 e =>
      rw [e] at h1 hm
      obtain ⟨m, _, hsv⟩ := h1
      exact (ih (f + 1) t1 s1).after hsv (fun _ h => h) fun _ _ _ => State.visitSite_of_step (s1 := s1) hm.walkMemStep

/-- An entry of a table was being read at the position the walker has in `t`. -/
def State.tableEntryAt (s t : State) (a : Word) (w : Bool) : Prop :=
  w = false ∧ ∃ l p, t.walker = .active l p ∧ (p.idx l).val < 512 ∧ a = s.phys (entryAt (p.tbl l) (p.idx l).val)

/-- A fatal fault of a part of a command: the first error, at an access `site` describes, or, all accesses served, a
fault that is no BUS_ERROR. -/
def FaultPort (s : State) (f : FatalFault) (s' : State) (site : Word → Bool → Prop) : Prop :=
  (f.code ≠ .busError ∧ ∃ n, Served n s s') ∨ ∃ n a w, Stopped n s s' ∧ f = busError a w ∧ site a w

theorem FaultPort.after {n : Nat} {s s1 s' : State} {f : FatalFault} {P Q : Word → Bool → Prop}
    (h : FaultPort s1 f s' P) (hsv : Served n s s1) (hPQ : ∀ a w, P a w → Q a w) : FaultPort s f s' Q := by
  rcases h with ⟨hf, m, hsv'⟩ | ⟨m, a, w, hst, hf, hP⟩
  · exact .inl ⟨hf, n + m, hsv.trans hsv'⟩
  · exact .inr ⟨n + m, a, w, hsv.stopped hst, hf, hPQ a w hP⟩

theorem reservedBit_not_bus (n : Nat) (a e : Word) : (reservedBit n a e).code ≠ .busError := by simp [reservedBit]

theorem unsupportedPage_not_bus (a e : Word) : (unsupportedPage a e).code ≠ .busError := by simp [unsupportedPage]

/-- An iteration that makes no access, from where it has its entry, and ends in no BUS_ERROR. -/
def WalkIter.Still (it : WalkIter) (s : State) : Prop :=
  Served 0 s it.state ∧ ∀ f s', it = .fatal f s' → f.code ≠ .busError

theorem WalkIter.still_again (l : Level) (p : WalkPos) (s : State) : (WalkIter.again l p s).Still s :=
  ⟨.refl s, fun _ _ h => nomatch h⟩

theorem WalkIter.still_record (r : WalkRecord) (l : Level) (p : WalkPos) (s : State) : (yieldRecord r l p s).Still s :=
  ⟨(Served.refl s).congr_right rfl rfl, fun _ _ h => nomatch h⟩

theorem WalkIter.still_fatal {f : FatalFault} (hf : f.code ≠ .busError) (w : Walker) (s : State) :
    (WalkIter.fatal f { s with walker := w }).Still s := by
  refine ⟨(Served.refl s).congr_right rfl rfl, fun f' s' h => ?_⟩
  rw [WalkIter.fatal.injEq] at h
  exact h.1 ▸ hf

theorem followEntry_still (l : Level) (p : WalkPos) (e : Word) (s : State) : (followEntry l p e s).Still s := by
  cases l <;> simp only [followEntry]
  case l1 => exact WalkIter.still_record _ _ _ s
  case l2 =>
    split
    · exact WalkIter.still_record _ _ _ s
    · exact WalkIter.still_again _ _ s
  case l3 =>
    split
    · exact WalkIter.still_fatal (unsupportedPage_not_bus _ _) _ s
    · exact WalkIter.still_again _ _ s
  case l4 => exact WalkIter.still_again _ _ s

/-- What ADVANCE does with an entry makes no access. -/
theorem visitEntry_still (l : Level) (p : WalkPos) (e : Word) (s : State) : (visitEntry l p e s).Still s := by
  unfold visitEntry
  split
  · exact WalkIter.still_again _ _ s
  · split
    · exact WalkIter.still_fatal (reservedBit_not_bus _ _ _) _ s
    · exact followEntry_still l p e s

theorem popTable_still (l : Level) (p : WalkPos) (s : State) : (popTable l p s).Still s := by
  cases l <;> exact ⟨(Served.refl s).congr_right rfl rfl, fun _ _ h => nomatch h⟩

/-- One iteration of ADVANCE reads one entry, or none (43_page_walker.md R204). -/
def WalkIter.Port (it : WalkIter) (s : State) : Prop :=
  match it with
  | .again _ _ s' | .record _ _ _ s' | .exhausted s' => ∃ n, Served n s s'
  | .fatal f s' => FaultPort s f s' (s.tableEntryAt s')

theorem WalkIter.Port.of_still {it : WalkIter} {n : Nat} {s s1 : State} (hsv : Served n s s1)
    (h : it.Still s1) : it.Port s := by
  have hs := hsv.trans h.1
  cases it
  case fatal f s' => exact .inl ⟨h.2 f s' rfl, _, hs⟩
  all_goals exact ⟨_, hs⟩

theorem advanceOnce_port (l : Level) (p : WalkPos) (s : State) : (advanceOnce l p s).Port s := by
  unfold advanceOnce
  split
  · exact .of_still (.refl s) (popTable_still l p s)
  next hin =>
    have hlt : (p.idx l).val < 512 := by omega
    have h1 := readWord_port (s.phys (p.entryAddr l)) s
    split
    next f s1 e =>
      rw [e] at h1
      obtain ⟨n, a, w, hst, hf, _, rfl, rfl⟩ := h1
      exact .inr ⟨n, _, _, hst.congr_right rfl, hf, rfl, l, p, rfl, hlt, rfl⟩
    next x s1 e => exact .of_still (h1.ok e) (visitEntry_still l p x s1)

/-- ADVANCE reads entries only. -/
def Advance.Port (ad : Advance) (s : State) : Prop :=
  match ad with
  | .record _ _ _ s' | .exhausted s' => ∃ n, Served n s s'
  | .fatal f s' => FaultPort s f s' (s.tableEntryAt s')
  | .unfinished => True

theorem WalkStep.phys_eq {s s' : State} (h : WalkStep s s') (a : Word) : s'.phys a = s.phys a := by
  rw [h]
  rfl

theorem State.tableEntryAt_of_step {P : Word → Prop} {s s1 t : State} (h : WalkMemStep P s s1) {a : Word} {w : Bool}
    (ha : s1.tableEntryAt t a w) : s.tableEntryAt t a w := by
  rw [h.frame] at ha
  exact ha

theorem Advance.Port.after {ad : Advance} {n : Nat} {s s1 : State} (h : ad.Port s1) (hsv : Served n s s1)
    (hw : WalkStep s s1) : ad.Port s := by
  cases ad with
  | record r l p s' => exact ⟨_, hsv.trans h.choose_spec⟩
  | exhausted s' => exact ⟨_, hsv.trans h.choose_spec⟩
  | fatal f s' => exact FaultPort.after h hsv fun _ _ => State.tableEntryAt_of_step (hw.walkMemStep (P := fun _ => False))
  | unfinished => trivial

theorem advance_port (n : Nat) (l : Level) (p : WalkPos) (s : State) : (advance n l p s).Port s := by
  induction n generalizing l p s with
  | zero => trivial
  | succ n ih =>
    have h1 := advanceOnce_port l p s
    have hw := advanceOnce_walkStep l p s
    unfold advance
    split <;> rename_i e <;> rw [e] at h1 hw
    · obtain ⟨m, hsv⟩ := h1
      exact (ih _ _ _).after hsv hw
    all_goals exact h1

/-- A whole walk reads entries and visits frames. -/
def WalkRun.Port (readOnly : Bool) (run : WalkRun) (s : State) : Prop :=
  match run with
  | .done _ s' => ∃ n, Served n s s'
  | .fatal f s' => FaultPort s f s' (fun a w => s.tableEntryAt s' a w ∨ s.visitSite readOnly a w)
  | .unfinished => True

theorem WalkRun.Port.after {readOnly : Bool} {P : Word → Prop} {run : WalkRun} {n : Nat} {s s1 : State}
    (h : run.Port readOnly s1) (hsv : Served n s s1) (hw : WalkMemStep P s s1) : run.Port readOnly s := by
  cases run with
  | done t s' => exact ⟨_, hsv.trans h.choose_spec⟩
  | fatal f s' =>
    exact FaultPort.after h hsv fun _ _ ha => ha.imp (State.tableEntryAt_of_step hw) (State.visitSite_of_step hw)
  | unfinished => trivial

theorem walkAll_port {readOnly : Bool} {visit : Nat → Tally → State → Access Tally} (hv : VisitPort readOnly visit)
    (n : Nat) (l : Level) (p : WalkPos) (t : Tally) (s : State) : (walkAll visit n l p t s).Port readOnly s := by
  induction n generalizing l p t s with
  | zero => trivial
  | succ n ih =>
    have h1 := advance_port walkFuel l p s
    have hw := @advance_walkStep walkFuel l p s
    unfold walkAll
    split <;> rename_i e <;> rw [e] at h1 hw
    · trivial
    · exact FaultPort.after h1 (.refl s) fun _ _ => .inl
    · exact h1
    next r l' p' s1 =>
      obtain ⟨m1, hsv1⟩ := h1
      have hw1 : WalkMemStep (fun _ => False) s s1 := (hw rfl).walkMemStep
      have h2 := visitFrames_port hv (pageFrames r.size) r.firstFrame { t with records := t.records + 1 } s1
      have hm := visitFrames_memStep hv.touches trackedByte_stable (pageFrames r.size) r.firstFrame
        { t with records := t.records + 1 } s1
      split <;> rename_i e2 <;> rw [e2] at h2 hm
      · obtain ⟨m2, a, w, hst, hf, hsite⟩ := h2
        exact .inr ⟨_, a, w, hsv1.stopped hst, hf, .inr (State.visitSite_of_step hw1 hsite)⟩
      · obtain ⟨m2, _, hsv2⟩ := h2
        exact (ih _ _ _ _).after (hsv1.trans hsv2) ((hw1.mono nofun).trans hm.walkMemStep)

end Sys2Proof.Machine
end

section
/-! The commands that access memory, past their gate (20_memory.md R61): each as the part that makes the accesses,
followed by what it does with the value. Claims about them use these equations and unfold no command. -/

namespace Sys2Proof.Machine

/-- A part of a command that accesses memory, then the rest of the command with its value; a fatal fault of the part
ends the command (60_exceptions.md R309). -/
def Access.orFatal {α : Type} (x : Access α) (k : α → State → Result) : Result :=
  match x with
  | .ok a s => k a s
  | .fatal f s => .next (raiseFatal f s)

theorem Access.orFatal_ok {α : Type} (a : α) (s : State) (k : α → State → Result) : (Access.ok a s).orFatal k = k a s := rfl

theorem Access.orFatal_fatal {α : Type} (f : FatalFault) (s : State) (k : α → State → Result) :
    (Access.fatal f s).orFatal k = .next (raiseFatal f s) := rfl

/-- The end of ARENA_FIND, from the snapshot (41_bootstrap_arena.md R161). -/
def State.afterFind (s : State) (mm : List MapEntry) (s1 : State) : State :=
  match findArena s.usableType s.args.v0.toNat s.args.v1.toNat mm 0 with
  | some (start, k) =>
    finish
      { v0 := BitVec.ofNat 64 start, v1 := BitVec.ofNat 64 (start + s.args.v0.toNat), v2 := BitVec.ofNat 64 k, v3 := 0 }
      (s1.setArena start s.args.v0.toNat)
  | none =>
    raiseFatal { code := .lookupNotFound, info0 := s.args.v0, info1 := s.args.v1, info2 := s.mmapCount } s1

theorem exec_arenaFind {s : State} (hg : gate .arenaFind s = none) :
    exec .arenaFind s =
      if s.mmapTooLong then .next (fail .badConfig s)
      else if !isPow2 s.args.v1.toNat then .next (fail .invalidAlignment s)
      else (snapshot s).orFatal fun mm s1 => .next (s.afterFind mm s1) := by
  show execArenaFind s = _
  unfold execArenaFind State.afterFind
  rw [hg]
  dsimp only
  congr 2
  cases snapshot s with
  | fatal f s1 => rfl
  | ok mm s1 =>
    dsimp only [Access.orFatal]
    generalize findArena _ _ _ _ _ = found
    cases found <;> rfl

/-- The state in which BITMAP_BUILD writes its bytes (42_bitmap_builder.md R180). -/
def State.building (s : State) (start frames : Nat) : State := s.beforeBuild start (ceilDiv frames 8) frames

/-- The writes of BITMAP_BUILD, and its end with OK (R180, R185). -/
def State.buildAt (s : State) (mm : List MapEntry) (start : Nat) (s1 : State) : Result :=
  (buildBytes (buildPlan s mm start) (ceilDiv (mapFrames mm) 8) 0 0 (s1.building start (mapFrames mm))).orFatal
    fun free s3 => .next (finish
      { v0 := BitVec.ofNat 64 start, v1 := BitVec.ofNat 64 (ceilDiv (mapFrames mm) 8)
        v2 := BitVec.ofNat 64 (mapFrames mm), v3 := BitVec.ofNat 64 free }
      { s3 with lifecycle := .built, arenaValid := false })

/-- ARENA_EXHAUSTED of BITMAP_BUILD (R182). -/
def arenaExhausted (bytes : Nat) (s : State) : FatalFault :=
  { code := .arenaExhausted, info0 := BitVec.ofNat 64 bytes, info1 := s.arena.cursor, info2 := s.arena.limit }

/-- BITMAP_BUILD from the snapshot on: the bytes are taken at the cursor, which needs no rounding (R182), or the arena
is exhausted. -/
def State.afterSnapshot (s : State) (mm : List MapEntry) (s1 : State) : Result :=
  if s1.arena.limit.toNat < s1.arena.cursor.toNat + ceilDiv (mapFrames mm) 8 then
    .next (raiseFatal (arenaExhausted (ceilDiv (mapFrames mm) 8) s1) s1)
  else s.buildAt mm s1.arena.cursor.toNat s1

theorem alignUp_one (a : Nat) : alignUp a 1 = a := by
  unfold alignUp
  omega

theorem exec_bitmapBuild {s : State} (hg : gate .bitmapBuild s = none) :
    exec .bitmapBuild s =
      if s.mmapTooLong then .next (fail .badConfig s) else (snapshot s).orFatal s.afterSnapshot := by
  show execBitmapBuild s = _
  unfold execBitmapBuild
  rw [hg]
  dsimp only
  congr 1
  cases snapshot s with
  | fatal f s1 => rfl
  | ok mm s1 =>
    rw [Access.orFatal_ok]
    unfold State.afterSnapshot
    have hone : isPow2 1 = true := by decide
    rcases take_cases (ceilDiv (mapFrames mm) 8) 1 s1 with
      ⟨hp, _⟩ | ⟨_, hlt, e⟩ | ⟨_, _, hlt, e⟩ | ⟨_, hle, e⟩
    · rw [hone] at hp
      cases hp
    · rw [alignUp_one] at hlt
      rw [if_pos (by omega)]
      dsimp only
      rw [e]
      rfl
    · rw [alignUp_one] at hlt
      rw [if_pos hlt]
      dsimp only
      rw [e]
      rfl
    · rw [alignUp_one] at hle e
      rw [if_neg (by omega)]
      dsimp only
      rw [e]
      unfold State.buildAt Access.orFatal
      dsimp only [State.building, State.beforeBuild, buildPlan]
      generalize buildBytes _ _ _ _ _ = written
      cases written <;> rfl

theorem gate_walkNext {s : State} (hh : s.halted = false) : gate .walkNext s = none := gate_none hh rfl

/-- The end of WALK_NEXT, from ADVANCE (43_page_walker.md R213). -/
def Advance.result (ad : Advance) : Result :=
  match ad with
  | .record r _ _ s => .next (finish { v0 := r.va, v1 := r.pa, v2 := pageSizeCode r.size, v3 := 1 } s)
  | .exhausted s => .next (finish .zero s)
  | .fatal f s => .next (raiseFatal f s)
  | .unfinished => .fault .walkBound

theorem exec_walkNext_active {s : State} {l : Level} {p : WalkPos} (hh : s.halted = false)
    (hw : s.walker = .active l p) (hp : s.physBitsValid = true) :
    exec .walkNext s = (advance walkFuel l p s).result := by
  show execWalkNext s = _
  unfold execWalkNext
  rw [gate_walkNext hh]
  dsimp only
  rw [hw]
  simp only [hp, Bool.not_true, Bool.false_eq_true, if_false]
  generalize advance walkFuel l p s = ad
  cases ad <;> rfl

/-- The check of WALK_MARK and WALK_CHECK on the CR3 value has passed (43_page_walker.md R206). -/
def State.walkOpen (s : State) : Prop := s.physBitsValid = true ∧ s.args.v0 &&& physMask s.physBits = 0

/-- The state in which a walk reads its first entry. -/
def State.atRoot (s : State) : State := { s with walker := .active .l4 (.init s.args.v0) }

/-- The end of WALK_MARK and WALK_CHECK (R215, R216). -/
def WalkRun.result (run : WalkRun) : Result :=
  match run with
  | .unfinished => .fault .walkBound
  | .fatal f s => .next (raiseFatal f s)
  | .done t s =>
    .next (finish
      { v0 := BitVec.ofNat 64 t.hits, v1 := BitVec.ofNat 64 t.total, v2 := BitVec.ofNat 64 t.outOfRange
        v3 := BitVec.ofNat 64 t.records } s)

theorem walkWhole_badConfig (visit : Nat → Tally → State → Access Tally) {s : State} (h : s.physBitsValid = false) :
    walkWhole visit s = .next (fail .badConfig s) := by
  unfold walkWhole
  rw [h]
  rfl

theorem walkWhole_reserved (visit : Nat → Tally → State → Access Tally) {s : State} (h : s.physBitsValid = true)
    (hc : s.args.v0 &&& physMask s.physBits ≠ 0) :
    walkWhole visit s = .next (raiseFatal (reservedBit 0 0 s.args.v0) s) := by
  unfold walkWhole initWalk
  rw [h, if_pos (bne_iff_ne.mpr hc)]
  rfl

theorem walkWhole_open (visit : Nat → Tally → State → Access Tally) {s : State} (h : s.walkOpen) :
    walkWhole visit s = (walkAll visit walkFuel .l4 (.init s.args.v0) .zero s.atRoot).result := by
  unfold walkWhole initWalk
  rw [h.1, h.2]
  simp only [bne_self_eq_false, Bool.not_true, Bool.false_eq_true, if_false]
  unfold WalkRun.result
  rfl

theorem exec_walkMark {s : State} (hg : gate .walkMark s = none) : exec .walkMark s = walkWhole markFrame s := by
  show execWalkMark s = _
  unfold execWalkMark
  rw [hg]

theorem exec_walkCheck {s : State} (hg : gate .walkCheck s = none) : exec .walkCheck s = walkWhole checkFrame s := by
  show execWalkCheck s = _
  unfold execWalkCheck
  rw [hg]

/-- The end of FRAME_ALLOC, from the scan (44_frame_allocator.md R240). -/
def allocAnswer (found : Option Nat) (s : State) : Result :=
  match found with
  | none => .next (fail .outOfMemory s)
  | some f => .next (finish { v0 := frameStart f, v1 := pageSizeCode .kib4, v2 := BitVec.ofNat 64 f, v3 := 0 } s)

theorem enterUse_eq {s : State} (hl : s.lifecycle = .built ∨ s.lifecycle = .inuse) :
    s.enterUse = { s with lifecycle := .inuse } := by
  unfold State.enterUse
  rcases hl with e | e
  · rw [if_pos e]
  · rw [if_neg (by rw [e]; decide), ← e]

theorem permits_use_iff (s : State) {i : Instr} (hi : i = .walkMark ∨ i = .frameAlloc ∨ i = .frameFree) :
    permits i s.lifecycle s.arenaValid = true ↔ s.lifecycle = .built ∨ s.lifecycle = .inuse := by
  rcases hi with rfl | rfl | rfl <;> simp [permits]

theorem permits_query {s : State} {i : Instr} (hi : i = .walkCheck ∨ i = .frameTest ∨ i = .freeCount)
    (hl : s.lifecycle ≠ .uninit) : permits i s.lifecycle s.arenaValid = true := by
  revert hl
  rcases hi with rfl | rfl | rfl <;> cases s.lifecycle <;> simp [permits]

theorem exec_frameAlloc {s : State} (hg : gate .frameAlloc s = none) :
    exec .frameAlloc s = (scanFree s.bitmap.bytes.toNat 0 { s with lifecycle := .inuse }).orFatal allocAnswer := by
  rw [← enterUse_eq ((permits_use_iff s (.inr (.inl rfl))).mp (gate_passed hg).1)]
  show execFrameAlloc s = _
  unfold execFrameAlloc
  rw [hg]
  dsimp only
  rcases scanFree s.bitmap.bytes.toNat 0 s.enterUse with ⟨_ | f, s1⟩ | ⟨f, s1⟩ <;> rfl

/-- The clearing loop of FRAME_FREE for a page, and its end with OK (R242). -/
def State.freePage (s : State) (sz : PageSize) : Result :=
  (freeFrames (pageFrames sz) (s.args.v0.toNat / frameSize) 0 { s with lifecycle := .inuse }).orFatal
    fun cleared s1 => .next (finish { Quad.zero with v0 := BitVec.ofNat 64 cleared } s1)

theorem exec_frameFree {s : State} (hg : gate .frameFree s = none) :
    exec .frameFree s =
      (pageSizeOf s.args.v1).elim (.next (fail .badRange s)) fun sz =>
        if s.args.v0.toNat % (frameSize * pageFrames sz) ≠ 0 then .next (fail .invalidAlignment s)
        else if s.bitmap.frameCount.toNat < s.args.v0.toNat / frameSize + pageFrames sz then
          .next (fail .badRange s)
        else s.freePage sz := by
  unfold State.freePage
  rw [← enterUse_eq ((permits_use_iff s (.inr (.inr rfl))).mp (gate_passed hg).1)]
  show execFrameFree s = _
  unfold execFrameFree
  rw [hg]
  dsimp only
  cases pageSizeOf s.args.v1 with
  | none => rfl
  | some sz =>
    dsimp only [Option.elim]
    generalize freeFrames _ _ _ _ = freed
    cases freed <;> rfl

theorem exec_frameTest {s : State} (hg : gate .frameTest s = none) :
    exec .frameTest s =
      if s.bitmap.frameCount.toNat ≤ s.args.v0.toNat then .next (fail .badRange s)
      else (readByte (s.frameByteAddr s.args.v0.toNat) s).orFatal fun b s1 =>
        .next (finish { Quad.zero with v0 := boolWord (b.getLsbD (s.args.v0.toNat % 8)) } s1) := by
  show execFrameTest s = _
  unfold execFrameTest
  rw [hg]
  dsimp only
  congr 1
  cases readByte (s.frameByteAddr s.args.v0.toNat) s <;> rfl

theorem exec_freeCount {s : State} (hg : gate .freeCount s = none) :
    exec .freeCount s =
      (countFree s.bitmap.bytes.toNat 0 0 s).orFatal fun free s1 =>
        .next (finish { Quad.zero with v0 := BitVec.ofNat 64 free, v1 := s.bitmap.frameCount } s1) := by
  show execFreeCount s = _
  unfold execFreeCount
  rw [hg]
  dsimp only
  cases countFree s.bitmap.bytes.toNat 0 0 s <;> rfl

end Sys2Proof.Machine
end

section
/-! What one access answers, by the answer of the port that waits (20_memory.md R79, R81), and what one iteration of
ADVANCE does, by the entry it reads (43_page_walker.md R204). -/

namespace Sys2Proof.Machine

theorem dropAnswer_of_cons {s : State} {x : PortAnswer} {rest : List PortAnswer} (h : s.answers = x :: rest) :
    s.dropAnswer = { s with answers := rest } := by
  rw [State.dropAnswer, h]
  rfl

section
variable {s : State} {rest : List PortAnswer} (a : Word)

theorem readByte_normal (h : s.answers = .normal :: rest) :
    readByte a s = .ok (s.mem.read a) { s with answers := rest } := by
  simp only [readByte, State.nextAnswer, h, dropAnswer_of_cons h]

theorem readWord_normal (h : s.answers = .normal :: rest) :
    readWord a s = .ok (s.mem.readWord a) { s with answers := rest } := by
  simp only [readWord, State.nextAnswer, h, dropAnswer_of_cons h]

theorem writeByte_normal (b : Byte) (h : s.answers = .normal :: rest) :
    writeByte a b s = .ok () { s with answers := rest, mem := s.mem.write a b } := by
  simp only [writeByte, State.nextAnswer, h, dropAnswer_of_cons h]

theorem readByte_raced {v : Word} (h : s.answers = .raced v :: rest) :
    readByte a s = .ok (v.setWidth 8) { s with answers := rest } := by
  simp only [readByte, State.nextAnswer, h, dropAnswer_of_cons h]

theorem readWord_raced {v : Word} (h : s.answers = .raced v :: rest) :
    readWord a s = .ok v { s with answers := rest } := by
  simp only [readWord, State.nextAnswer, h, dropAnswer_of_cons h]

theorem readByte_error {x : Byte} (hc : s.config.portCanError = true) (h : s.answers = .error x :: rest) :
    readByte a s = .fatal (busError a false) { s with answers := rest } := by
  simp only [readByte, State.nextAnswer, h, dropAnswer_of_cons h, hc, if_true]

theorem readWord_error {x : Byte} (hc : s.config.portCanError = true) (h : s.answers = .error x :: rest) :
    readWord a s = .fatal (busError a false) { s with answers := rest } := by
  simp only [readWord, State.nextAnswer, h, dropAnswer_of_cons h, hc, if_true]

theorem writeByte_error (b : Byte) {x : Byte} (hc : s.config.portCanError = true) (h : s.answers = .error x :: rest) :
    writeByte a b s = .fatal (busError a true) { s with answers := rest, mem := s.mem.write a x } := by
  simp only [writeByte, State.nextAnswer, h, dropAnswer_of_cons h, hc, if_true]

end

/-! ### One iteration of ADVANCE -/

theorem visitEntry_absent {l : Level} {p : WalkPos} {e : Word} {s : State} (h : entryPresent e = false) :
    visitEntry l p e s = .again l (p.bump l) s := by
  simp [visitEntry, h]

theorem visitEntry_reserved {l : Level} {p : WalkPos} {e : Word} {s : State} (h : entryPresent e = true)
    (hv : violation l e s.physBits s.nxe ≠ 0) :
    visitEntry l p e s = .fatal (reservedBit (levelNumber l) (p.entryAddr l) e) { s with walker := .active l p } := by
  rw [visitEntry, if_neg (by simp [h]), if_pos (bne_iff_ne.mpr hv)]

theorem visitEntry_clean {l : Level} {p : WalkPos} {e : Word} {s : State} (h : entryPresent e = true)
    (hv : violation l e s.physBits s.nxe = 0) : visitEntry l p e s = followEntry l p e s := by
  simp [visitEntry, h, hv]

theorem advanceOnce_end {l : Level} {p : WalkPos} {s : State} (h : (p.idx l).val = 512) :
    advanceOnce l p s = popTable l p s := by
  rw [advanceOnce, if_pos h]

theorem advanceOnce_read {l : Level} {p : WalkPos} {s s1 : State} {e : Word} (h : (p.idx l).val < 512)
    (hr : readWord (s.phys (p.entryAddr l)) s = .ok e s1) : advanceOnce l p s = visitEntry l p e s1 := by
  rw [advanceOnce, if_neg (by omega), hr]

theorem advanceOnce_error {l : Level} {p : WalkPos} {s : State} {x : Byte} {rest : List PortAnswer}
    (h : (p.idx l).val < 512) (hc : s.config.portCanError = true) (ha : s.answers = .error x :: rest) :
    advanceOnce l p s = .fatal (busError (s.phys (p.entryAddr l)) false)
      { s with answers := rest, walker := .active l p } := by
  rw [advanceOnce, if_neg (by omega), readWord_error _ hc ha]

theorem walkFuel_succ : walkFuel = (walkFuel - 1) + 1 := by decide

/-- ADVANCE that ends in its first iteration. -/
theorem advance_of_fatal {l : Level} {p : WalkPos} {s s' : State} {f : FatalFault}
    (h : advanceOnce l p s = .fatal f s') : advance walkFuel l p s = .fatal f s' := by
  rw [walkFuel_succ, advance, h]

theorem advance_of_record {l l' : Level} {p p' : WalkPos} {s s' : State} {r : WalkRecord}
    (h : advanceOnce l p s = .record r l' p' s') : advance walkFuel l p s = .record r l' p' s' := by
  rw [walkFuel_succ, advance, h]

/-- An error at the first entry of a walk ends it there, the walker at the root (R204, R206). -/
theorem walkAll_error_first {visit : Nat → Tally → State → Access Tally} {cr3 : Word} {t : Tally} {s : State} {x : Byte}
    {rest : List PortAnswer} (hs : s.answers = .error x :: rest) (hc : s.config.portCanError = true) :
    walkAll visit walkFuel .l4 (.init cr3) t s =
      .fatal (busError (s.phys (rootTable cr3)) false)
        { s with answers := rest, walker := .active .l4 (.init cr3) } := by
  have ha : (WalkPos.init cr3).entryAddr .l4 = rootTable cr3 := BitVec.add_zero _
  have hi : ((WalkPos.init cr3).idx .l4).val < 512 := by
    show 0 < 512
    omega
  have hstop := advance_of_fatal (advanceOnce_error hi hc hs)
  rw [walkFuel_succ, walkAll, hstop, ha]

end Sys2Proof.Machine
end

section
/-! A command uses up the port's answers in order and ends in BUS_ERROR exactly at the first error (O60); from it and
`exec_ends`, the fatal faults of each command (O49) and the bytes a command writes (O50). -/

namespace Sys2Proof.Machine

/-- How a command other than RESET uses the port: every access served and no BUS_ERROR, or stopped at the first error,
at an access R61 gives the command. -/
def PortEnds (i : Instr) (s t : State) : Prop :=
  (∃ n, Served n s t ∧ ¬ (t.halted = true ∧ t.fault.code = some .busError))
    ∨ ∃ n a w s1, Stopped n s s1 ∧ t = raiseFatal (busError a w) s1 ∧ s.accesses i t n a w

theorem PortEnds.served {i : Instr} {n : Nat} {s s1 t : State} (hsv : Served n s s1) (ha : t.answers = s1.answers)
    (hc : t.config = s1.config) (hh : t.halted = false) : PortEnds i s t :=
  .inl ⟨n, hsv.congr_right ha hc, fun h => by rw [hh] at h; cases h.1⟩

/-- A fatal fault that is no BUS_ERROR. -/
theorem PortEnds.other {i : Instr} {n : Nat} {s s1 : State} {f : FatalFault} (hsv : Served n s s1)
    (hf : f.code ≠ .busError) : PortEnds i s (raiseFatal f s1) :=
  .inl ⟨n, hsv.congr_right rfl rfl, fun h => hf (Option.some.inj h.2)⟩

theorem PortEnds.failed {i : Instr} {st : Status} {s : State} (hh : s.halted = false) : PortEnds i s (fail st s) :=
  .served (.refl s) rfl rfl hh

/-- What a command does after a part that accesses memory decides only when the part completed. -/
theorem PortEnds.ofPart {α : Type} {i : Instr} {x : Access α} {r s t : State} {c : Nat → Prop}
    {P : Nat → Word → Bool → Prop} {k : α → State → Result} (hx : x.Port r c P) (ha : r.answers = s.answers)
    (hc : r.config = s.config) (h : x.orFatal k = .next t)
    (hstop : ∀ n a w s1, x = .fatal (busError a w) s1 → Stopped n s s1 → P n a w →
      s.accesses i (raiseFatal (busError a w) s1) n a w)
    (hok : ∀ n v s1, x = .ok v s1 → c n → Served n s s1 → k v s1 = .next t → PortEnds i s t) : PortEnds i s t := by
  cases x with
  | ok v s1 =>
    obtain ⟨n, hn, hsv⟩ := hx
    exact hok n v s1 rfl hn (hsv.congr_left ha hc) h
  | fatal f s1 =>
    obtain ⟨n, a, w, hst, rfl, hP⟩ := hx
    have hst' := hst.congr_left ha hc
    cases h
    exact .inr ⟨n, a, w, s1, hst', rfl, hstop n a w s1 rfl hst' hP⟩

theorem ReadStep.halted_eq {s s' : State} (h : ReadStep s s') : s'.halted = s.halted := by
  rw [h]

theorem MemStep.halted_eq {P : Word → Prop} {s s' : State} (h : MemStep P s s') : s'.halted = s.halted := by
  rw [h.frame]

theorem WalkMemStep.halted_eq {P : Word → Prop} {s s' : State} (h : WalkMemStep P s s') : s'.halted = s.halted := by
  rw [h.frame]

/-! ### The commands -/

theorem frameTest_portEnds {s t : State} (hg : gate .frameTest s = none) (hh : s.halted = false)
    (h : exec .frameTest s = .next t) : PortEnds .frameTest s t := by
  rw [exec_frameTest hg] at h
  split at h
  · cases h
    exact .failed hh
  · have hr := readByte_readStep (s.frameByteAddr s.args.v0.toNat) s
    refine .ofPart (readByte_port _ s) rfl rfl h ?_ ?_
    · rintro n a w s1 _ _ ⟨rfl, rfl, rfl⟩
      exact ⟨rfl, rfl, rfl⟩
    · intro n b s1 e _ hsv hk
      rw [e] at hr
      cases hk
      exact .served hsv rfl rfl (hr.halted_eq.trans hh)

theorem freeCount_portEnds {s t : State} (hg : gate .freeCount s = none) (hh : s.halted = false)
    (h : exec .freeCount s = .next t) : PortEnds .freeCount s t := by
  rw [exec_freeCount hg] at h
  have hr := countFree_readStep s.bitmap.bytes.toNat 0 0 s
  refine .ofPart (countFree_port _ 0 0 s) rfl rfl h ?_ ?_
  · rintro n a w s1 _ _ ⟨hn, rfl, rfl⟩
    exact ⟨rfl, hn, by rw [Nat.zero_add]⟩
  · intro n free s1 e _ hsv hk
    rw [e] at hr
    cases hk
    exact .served hsv rfl rfl (hr.halted_eq.trans hh)

theorem frameAlloc_portEnds {s t : State} (hg : gate .frameAlloc s = none) (hh : s.halted = false)
    (h : exec .frameAlloc s = .next t) : PortEnds .frameAlloc s t := by
  rw [exec_frameAlloc hg] at h
  have hm := scanFree_memStep s.bitmap.bytes.toNat 0 { s with lifecycle := .inuse }
  refine .ofPart (scanFree_port _ 0 { s with lifecycle := .inuse }) rfl rfl h ?_ ?_
  · rintro n a w s1 _ _ (⟨hn, rfl, rfl⟩ | ⟨hpos, hn, rfl, rfl⟩)
    · exact .inl ⟨rfl, hn, by rw [Nat.zero_add]; rfl⟩
    · exact .inr ⟨rfl, hpos, by omega, by rw [Nat.zero_add]; rfl⟩
  · intro n found s1 e _ hsv hk
    rw [e] at hm
    have hh1 : s1.halted = false := (MemStep.halted_eq (s' := s1) hm).trans hh
    cases found <;> cases hk <;> exact .served hsv rfl rfl hh1

theorem pageFrames_of_code {v : Word} {sz : PageSize} (h : pageSizeOf v = some sz) :
    pageFrames sz = if v = 0 then 1 else 512 := by
  unfold pageSizeOf at h
  split at h
  next h0 => cases h; rw [if_pos h0]; rfl
  next h0 =>
    split at h <;> cases h
    rw [if_neg h0]
    rfl

theorem frameFree_portEnds {s t : State} (hg : gate .frameFree s = none) (hh : s.halted = false)
    (h : exec .frameFree s = .next t) : PortEnds .frameFree s t := by
  rw [exec_frameFree hg] at h
  cases hsz : pageSizeOf s.args.v1 with
  | none =>
    rw [hsz] at h
    cases h
    exact .failed hh
  | some sz =>
    simp only [hsz, Option.elim] at h
    split at h
    · cases h
      exact .failed hh
    · split at h
      · cases h
        exact .failed hh
      next hrange =>
        have hm := freeFrames_memStep (pageFrames sz) (s.args.v0.toNat / frameSize) 0 { s with lifecycle := .inuse }
        refine .ofPart (freeFrames_port _ _ 0 { s with lifecycle := .inuse }) rfl rfl h ?_ ?_
        · rintro n a w s1 _ _ ⟨⟨g, hg1, hg2, rfl⟩, hfirst⟩
          exact ⟨hfirst, g, hg1, by omega, by rw [← pageFrames_of_code hsz]; exact hg2, rfl⟩
        · intro n cleared s1 e _ hsv hk
          rw [e] at hm
          cases hk
          exact .served hsv rfl rfl ((MemStep.halted_eq (s' := s1) hm).trans hh)

theorem arenaFind_portEnds {s t : State} (hg : gate .arenaFind s = none) (hh : s.halted = false)
    (h : exec .arenaFind s = .next t) : PortEnds .arenaFind s t := by
  rw [exec_arenaFind hg] at h
  split at h
  · cases h
    exact .failed hh
  · split at h
    · cases h
      exact .failed hh
    · have hr := snapshot_readStep s
      refine .ofPart (snapshot_port s) rfl rfl h ?_ ?_
      · rintro n a w s1 _ _ ⟨hn, rfl, rfl⟩
        exact ⟨rfl, hn, by rw [Nat.zero_add]⟩
      · intro n mm s1 e _ hsv hk
        rw [e] at hr
        cases hk
        unfold State.afterFind
        split
        · exact .served hsv rfl rfl (hr.halted_eq.trans hh)
        · exact .other hsv nofun

theorem ceilDiv_mapFrames_lt (mm : List MapEntry) : ceilDiv (mapFrames mm) 8 < 2 ^ 64 := by
  have := mapFrames_le mm
  unfold ceilDiv
  omega

theorem bitmapBuild_portEnds {s t : State} (hg : gate .bitmapBuild s = none) (hh : s.halted = false)
    (h : exec .bitmapBuild s = .next t) : PortEnds .bitmapBuild s t := by
  rw [exec_bitmapBuild hg] at h
  split at h
  · cases h
    exact .failed hh
  · have hr := snapshot_readStep s
    refine .ofPart (snapshot_port s) rfl rfl h ?_ ?_
    · rintro n a w s1 _ _ ⟨hn, rfl, rfl⟩
      exact .inl ⟨rfl, hn, by rw [Nat.zero_add]⟩
    · intro n mm s1 e hn hsv hk
      rw [e] at hr
      unfold State.afterSnapshot at hk
      split at hk
      · cases hk
        exact .other hsv nofun
      · have hm := buildBytes_memStep (buildPlan s mm s1.arena.cursor.toNat) (ceilDiv (mapFrames mm) 8) 0 0
          (s1.building s1.arena.cursor.toNat (mapFrames mm))
        refine .ofPart ((buildBytes_port _ _ 0 0 _).after
          (hsv.congr_right (s'' := s1.building s1.arena.cursor.toNat (mapFrames mm)) rfl rfl) (d := fun _ => True)
          (Q := fun m a w => n ≤ m ∧ (s1.building s1.arena.cursor.toNat (mapFrames mm)).bitmapByteAt true 0
            (ceilDiv (mapFrames mm) 8) (m - n) a w)
          (fun _ _ => trivial) fun m a w hP => ⟨by omega, by rwa [Nat.add_sub_cancel_left]⟩) rfl rfl hk ?_ ?_
        · rintro m a w s3 e3 _ ⟨hm1, hm2, rfl, rfl⟩
          rw [e3] at hm
          have hb : (raiseFatal (busError ((s1.building s1.arena.cursor.toNat (mapFrames mm)).bitmapAddr
              (0 + (m - n))) true) s3).bitmap.bytes.toNat = ceilDiv (mapFrames mm) 8 := by
            show s3.bitmap.bytes.toNat = _
            rw [MemStep.bitmap_eq (s' := s3) hm]
            show (BitVec.ofNat 64 (ceilDiv (mapFrames mm) 8)).toNat = _
            rw [BitVec.toNat_ofNat, Nat.mod_eq_of_lt (ceilDiv_mapFrames_lt mm)]
          refine .inr ⟨rfl, by omega, by rw [hb]; omega, ?_⟩
          rw [Nat.zero_add, ← MemStep.bitmapAddr_eq (s' := s3) hm, hn]
          rfl
        · intro m free s3 e3 _ hsv3 hk3
          rw [e3] at hm
          have hh3 : s3.halted = false :=
            (MemStep.halted_eq (s' := s3) hm).trans ((ReadStep.halted_eq (s' := s1) hr).trans hh)
          cases hk3
          exact .served hsv3 rfl rfl hh3

/-- A walk's fatal fault as the fault of its command. -/
theorem PortEnds.ofFault {i : Instr} {r s s1 : State} {f : FatalFault} {P : Word → Bool → Prop}
    (h : FaultPort r f s1 P) (ha : r.answers = s.answers) (hc : r.config = s.config)
    (hP : ∀ n a w, Stopped n s s1 → f = busError a w → P a w → s.accesses i (raiseFatal f s1) n a w) :
    PortEnds i s (raiseFatal f s1) := by
  rcases h with ⟨hf, n, hsv⟩ | ⟨n, a, w, hst, rfl, hsite⟩
  · exact .other (hsv.congr_left ha hc) hf
  · have hst' := hst.congr_left ha hc
    exact .inr ⟨n, a, w, s1, hst', rfl, hP n a w hst' rfl hsite⟩

theorem walkNext_portEnds {s t : State} (hh : s.halted = false) (h : exec .walkNext s = .next t) :
    PortEnds .walkNext s t := by
  rcases execWalkNext_cases h with
    ⟨_, rfl, _⟩ | ⟨_, ⟨_, _, rfl⟩ | ⟨l, p, _, ⟨f, s1, e, rfl⟩ | ⟨s1, e, rfl⟩ | ⟨r, l', p', s1, e, rfl⟩⟩⟩
  · exact .failed hh
  · exact .served (.refl s) rfl rfl hh
  all_goals
    have hport := advance_port walkFuel l p s
    have hw : WalkMemStep (fun _ => False) s s1 := (advance_walkStep (by rw [e]; rfl)).walkMemStep
    rw [e] at hport
  · exact .ofFault hport rfl rfl fun _ _ _ _ _ h => h
  · obtain ⟨n, hsv⟩ := hport
    exact .served hsv rfl rfl (hw.halted_eq.trans hh)
  · obtain ⟨n, hsv⟩ := hport
    exact .served hsv rfl rfl (hw.halted_eq.trans hh)

theorem walkWhole_portEnds {readOnly : Bool} {visit : Nat → Tally → State → Access Tally} {i : Instr} {s t : State}
    (hv : VisitPort readOnly visit) (hh : s.halted = false) (h : walkWhole visit s = .next t)
    (hacc : ∀ t n a w, (n = 0 → w = false ∧ a = s.phys (rootTable s.args.v0)) →
      (s.tableEntryAt t a w ∨ s.visitSite readOnly a w) → s.accesses i t n a w) : PortEnds i s t := by
  by_cases hp : s.physBitsValid = true
  · by_cases hc : s.args.v0 &&& physMask s.physBits = 0
    · rw [walkWhole_open visit ⟨hp, hc⟩] at h
      have hport := walkAll_port hv walkFuel .l4 (.init s.args.v0) .zero s.atRoot
      have hm := @walkAll_walkMemStep _ _ hv.touches trackedByte_stable walkFuel .l4 (.init s.args.v0) .zero s.atRoot
      cases e : walkAll visit walkFuel .l4 (.init s.args.v0) .zero s.atRoot with
      | unfinished =>
        rw [e] at h
        cases h
      | done y s2 =>
        rw [e] at h hport hm
        obtain ⟨n, hsv⟩ := hport
        cases h
        exact .served (hsv.congr_left rfl rfl) rfl rfl ((hm rfl).halted_eq.trans hh)
      | fatal f s2 =>
        rw [e] at h hport
        cases h
        refine .ofFault hport rfl rfl fun n a w hst hf hsite => hacc _ n a w (fun h0 => ?_) hsite
        subst h0
        obtain ⟨x, hx⟩ := hst.atError
        rw [walkAll_error_first (s := s.atRoot) hx hst.canError, hf] at e
        simp only [WalkRun.fatal.injEq, busError, FatalFault.mk.injEq] at e
        obtain ⟨⟨_, _, ha, hw⟩, _⟩ := e
        refine ⟨?_, ha.symm⟩
        cases w
        · rfl
        · exact absurd hw (by decide)
    · rw [walkWhole_reserved visit hp hc] at h
      cases h
      exact .other (.refl s) (reservedBit_not_bus _ _ _)
  · rw [walkWhole_badConfig visit (by simpa using hp)] at h
    cases h
    exact .failed hh

theorem walkMark_portEnds {s t : State} (hg : gate .walkMark s = none) (hh : s.halted = false)
    (h : exec .walkMark s = .next t) : PortEnds .walkMark s t := by
  rw [exec_walkMark hg] at h
  exact walkWhole_portEnds markFrame_visitPort hh h fun _ _ _ _ h0 hsite =>
    ⟨h0, hsite.imp id fun ⟨_, f, hf⟩ => ⟨f, hf⟩⟩

theorem walkCheck_portEnds {s t : State} (hg : gate .walkCheck s = none) (hh : s.halted = false)
    (h : exec .walkCheck s = .next t) : PortEnds .walkCheck s t := by
  rw [exec_walkCheck hg] at h
  exact walkWhole_portEnds checkFrame_visitPort hh h fun _ _ _ _ h0 hsite =>
    ⟨h0, hsite.imp id fun ⟨hw, f, hf⟩ => ⟨hw rfl, f, hf⟩⟩

/-- The commands without an access leave the port's answers and end in no BUS_ERROR. -/
theorem exec_portEnds_of_no_access {i : Instr} {s t : State} (hh : s.halted = false) (h : exec i s = .next t)
    (hi : answersOnly i = true ∨ i ∈ [Instr.arenaAlloc, .walkStart, .bitmapFreeze, .csrRead, .csrWrite]) :
    PortEnds i s t := by
  rcases hi with hi | hi
  · rcases exec_answersOnly hi h with ⟨_, rfl⟩ | ⟨_, rfl, _⟩
    · exact .served (.refl s) rfl rfl hh
    · exact .failed hh
  · simp only [List.mem_cons, List.not_mem_nil, or_false] at hi
    rcases hi with rfl | rfl | rfl | rfl | rfl
    · rcases execArenaAlloc_cases h with ⟨_, rfl, _⟩ | ⟨_, _, _, _, _, _, rfl⟩
      · exact .failed hh
      · exact .served (.refl s) rfl rfl hh
    · rcases execWalkStart_cases h with ⟨_, rfl, _⟩ | ⟨_, ⟨f, hf, rfl⟩ | rfl⟩
      · exact .failed hh
      · exact .other (.refl s) (by rw [hf]; decide)
      · exact .served (.refl s) rfl rfl hh
    · rcases execBitmapFreeze_cases h with ⟨_, rfl, _⟩ | ⟨_, _, rfl⟩
      · exact .failed hh
      · exact .served (.refl s) rfl rfl hh
    · rcases execCsrRead_cases h with ⟨_, _, rfl⟩ | ⟨_, rfl⟩
      · exact .served (.refl s) rfl rfl hh
      · exact .failed hh
    · rcases execCsrWrite_cases h with ⟨_, rfl, _⟩ | ⟨_, c, _, _, rfl⟩
      · exact .failed hh
      · exact .served (.refl s) (writeCsr_answers s c _) (writeCsr_config s c _)
          ((writeCsr_halted s c _).trans hh)

/-- How every command but RESET uses the port, in a block that is not halted. -/
theorem exec_portEnds {i : Instr} {s t : State} (hh : s.halted = false) (hr : i ≠ .reset) (h : exec i s = .next t) :
    PortEnds i s t := by
  cases hg : gate i s with
  | some st =>
    rw [exec_of_gate hg] at h
    cases h
    exact .failed hh
  | none =>
    cases i
    case arenaFind => exact arenaFind_portEnds hg hh h
    case bitmapBuild => exact bitmapBuild_portEnds hg hh h
    case walkNext => exact walkNext_portEnds hh h
    case walkMark => exact walkMark_portEnds hg hh h
    case walkCheck => exact walkCheck_portEnds hg hh h
    case frameAlloc => exact frameAlloc_portEnds hg hh h
    case frameFree => exact frameFree_portEnds hg hh h
    case frameTest => exact frameTest_portEnds hg hh h
    case freeCount => exact freeCount_portEnds hg hh h
    case reset => exact absurd rfl hr
    all_goals exact exec_portEnds_of_no_access hh h (by decide)

/-- Settles O60: the answers used are those taken from the list, up to the first error if the command met one. -/
theorem firstErrorEndsTheCommand : Obligations.FirstErrorEndsTheCommand := by
  intro i s t hh hc hr h
  rcases exec_portEnds hh hr h with ⟨n, hsv, hno⟩ | ⟨n, a, w, s1, hst, rfl, hacc⟩
  · exact ⟨s.answers.take n, by rw [hsv.answers, List.take_append_drop], .inl ⟨hsv.noError hc, hno⟩⟩
  · obtain ⟨x, hx⟩ := hst.atError
    have hlen : (s.answers.take n).length = n := by
      rw [List.length_take, Nat.min_eq_left]
      by_contra hgt
      rw [List.drop_eq_nil_of_le (by omega)] at hx
      cases hx
    refine ⟨s.answers.take n ++ [.error x], ?_, .inr ⟨_, x, a, w, rfl, hst.noError, rfl, ?_, by rwa [hlen]⟩⟩
    · show s.answers = s.answers.take n ++ [.error x] ++ s1.answers
      rw [List.append_assoc, List.singleton_append, ← hx, List.take_append_drop]
    · cases w <;> rfl

/-- Settles O49: a fatal fault is one of `faultsOf` by `exec_ends`, and a BUS_ERROR comes from an error of the port. -/
theorem faultsOfCommands : Obligations.FaultsOfCommands := by
  intro i s t c hh h ht hcode
  have hr : i ≠ .reset := by
    rintro rfl
    cases (execReset_eq s).symm.trans h
    cases ht
  constructor
  · rcases exec_ends h hr with ⟨_, rfl, _⟩ | ⟨_, rfl⟩ | ⟨s1, he, ⟨_, rfl⟩ | ⟨f, hf, rfl, _⟩ | ⟨_, _, rfl⟩⟩
    case inr.inr.inr.inl =>
      cases hcode
      exact hf
    case inl => exact absurd (ht.symm.trans hh) nofun
    case inr.inl => exact absurd (ht.symm.trans hh) nofun
    all_goals
      have hsame : s1.halted = s.halted := by rw [he.frame]
      exact absurd ((ht.symm.trans hsame).trans hh) nofun
  · rintro rfl
    rcases exec_portEnds hh hr h with ⟨_, _, hno⟩ | ⟨_, _, _, _, hst, _⟩
    · exact absurd ⟨ht, hcode⟩ hno
    · exact hst.canError

/-- Settles O50: RESET leaves memory, and every other command changes it by its effect. -/
theorem onlyBitmapBytesWritten : Obligations.OnlyBitmapBytesWritten := by
  intro i s t hs h
  by_cases hr : i = .reset
  · subst hr
    cases (execReset_eq s).symm.trans h
    exact ⟨fun _ _ => rfl, fun _ _ _ _ => rfl⟩
  · obtain ⟨s1, _, _, _, _, he, rfl, _⟩ := exec_effect h hr
    refine ⟨he.bytes hs.memCanonical hs.bitmapCovers, fun hbuild hmark halloc hfree => ?_⟩
    exact he.mem.resolve_right (by simp [hbuild, hmark, halloc, hfree])

end Sys2Proof.Machine
end

section
/-! An 8-byte read is little-endian (20_memory.md R62, R65; O52). -/

namespace Sys2Proof.Machine

/-- A word with a byte below it. -/
theorem toNat_append_byte {n : Nat} (x : BitVec n) (b : Byte) : (x ++ b).toNat = 2 ^ 8 * x.toNat + b.toNat := by
  rw [BitVec.toNat_append, ← Nat.shiftLeft_add_eq_or_of_lt b.isLt, Nat.shiftLeft_eq, Nat.mul_comm]

/-- Eight bytes side by side, the last the lowest. -/
theorem toNat_append_bytes (b7 b6 b5 b4 b3 b2 b1 b0 : Byte) :
    (b7 ++ b6 ++ b5 ++ b4 ++ b3 ++ b2 ++ b1 ++ b0).toNat =
      b0.toNat * 2 ^ (8 * 0) + (b1.toNat * 2 ^ (8 * 1) + (b2.toNat * 2 ^ (8 * 2) + (b3.toNat * 2 ^ (8 * 3)
        + (b4.toNat * 2 ^ (8 * 4) + (b5.toNat * 2 ^ (8 * 5) + (b6.toNat * 2 ^ (8 * 6)
        + b7.toNat * 2 ^ (8 * 7))))))) := by
  simp only [toNat_append_byte]
  omega

theorem sum_map_range_eight (f : Nat → Nat) :
    ((List.range 8).map f).sum = f 0 + (f 1 + (f 2 + (f 3 + (f 4 + (f 5 + (f 6 + f 7)))))) := by
  have hrange : List.range 8 = [0, 1, 2, 3, 4, 5, 6, 7] := rfl
  simp only [hrange, List.map_cons, List.map_nil, List.sum_cons, List.sum_nil, Nat.add_zero]

/-- Settles O52: the read appends the eight bytes, the highest address on top. -/
theorem littleEndianRead : Obligations.LittleEndianRead := by
  intro m a
  rw [sum_map_range_eight]
  simp only [BitVec.add_zero]
  exact toNat_append_bytes _ _ _ _ _ _ _ _

end Sys2Proof.Machine
end

section
/-! Where an access answered with an error, or with a racing value, leads (20_memory.md R79, R81; O54, O55): the command
past its gate, and the one access it makes. -/

namespace Sys2Proof.Machine

theorem mmapTooLong_false {s : State} (h : ¬ s.overMax) : s.mmapTooLong = false := by
  unfold State.mmapTooLong
  cases hm : s.config.mmapMax with
  | none => rfl
  | some m => exact decide_eq_false fun hlt => h ⟨m, hm, hlt⟩

theorem isPow2_of_word {v : Word} (h : ∃ j, v.toNat = 2 ^ j) : isPow2 v.toNat = true := by
  obtain ⟨j, hj⟩ := h
  have hlt : j < 64 := by
    by_contra hge
    have := Nat.pow_le_pow_right (n := 2) (by omega) (not_lt.mp hge)
    have := v.isLt
    omega
  unfold isPow2
  rw [List.any_eq_true]
  exact ⟨j, List.mem_range.mpr hlt, beq_iff_eq.mpr hj⟩

theorem physBitsValid_iff (s : State) : s.physBitsValid = true ↔ 13 ≤ s.physBits ∧ s.physBits ≤ 52 := by
  simp [State.physBitsValid]

/-- A part that only reads, one access for each of N numbers, meets the first error at its number. -/
theorem Access.Port.error_at {α : Type} {x : Access α} {s : State} {N : Nat} {P : Nat → Word → Bool → Prop}
    {before rest : List PortAnswer} {y : Byte} (h : x.Port s (· = N) P) (hr : ReadStep s x.state)
    (hc : s.config.portCanError = true) (hs : s.answers = before ++ .error y :: rest) (hb : ∀ y, .error y ∉ before)
    (hlt : before.length < N) :
    ∃ a w, P before.length a w ∧ x = .fatal (busError a w) { s with answers := rest } := by
  cases x with
  | ok v s1 =>
    obtain ⟨n, rfl, hsv⟩ := h
    exact absurd (hsv.le_first_error hc hs) (by omega)
  | fatal f s1 =>
    obtain ⟨n, a, w, hst, rfl, hP⟩ := h
    obtain ⟨rfl, hrest⟩ := hst.first_error hs hb
    have h1 : s1 = { s with answers := rest } := by
      rw [← hrest]
      exact hr
    exact ⟨a, w, hP, by rw [h1]⟩

/-- The snapshot ends at the first word of the map that is answered with an error (20_memory.md R71). -/
theorem snapshot_error {s : State} {before rest : List PortAnswer} {y : Byte} (hc : s.config.portCanError = true)
    (hs : s.answers = before ++ .error y :: rest) (hb : ∀ y, .error y ∉ before)
    (hlt : before.length < 3 * s.mmapCount.toNat) :
    snapshot s = .fatal (busError (s.entryAddr (before.length / 3) + BitVec.ofNat 64 (8 * (before.length % 3))) false)
      { s with answers := rest } := by
  obtain ⟨a, w, ⟨_, rfl, rfl⟩, e⟩ := (snapshot_port s).error_at (snapshot_readStep s) hc hs hb hlt
  rw [e, Nat.zero_add]

theorem arenaFind_error {s : State} {before rest : List PortAnswer} {y : Byte} (hh : s.halted = false)
    (hc : s.config.portCanError = true) (hs : s.answers = before ++ .error y :: rest) (hb : ∀ y, .error y ∉ before)
    (hv : s.arenaValid = false) (hl : s.lifecycle = .uninit) (hm : ¬ s.overMax) (hp : ∃ j, s.args.v1.toNat = 2 ^ j)
    (hlt : before.length < 3 * s.mmapCount.toNat) :
    exec .arenaFind s = .next (({ s with answers := rest } : State).faulted
      (busError (s.entryAddr (before.length / 3) + BitVec.ofNat 64 (8 * (before.length % 3))) false)) := by
  have hg : gate .arenaFind s = none := gate_none hh (by simp [permits, hl, hv])
  rw [exec_arenaFind hg, mmapTooLong_false hm, isPow2_of_word hp, snapshot_error hc hs hb hlt]
  rfl

theorem walkNext_error {s : State} {l : Level} {p : WalkPos} {x : Byte} {rest : List PortAnswer}
    (hh : s.halted = false) (hc : s.config.portCanError = true) (hw : s.walker = .active l p)
    (hi : (p.idx l).val < 512) (hp : 13 ≤ s.physBits ∧ s.physBits ≤ 52) (ha : s.answers = .error x :: rest) :
    exec .walkNext s = .next (({ s with answers := rest } : State).faulted
      (busError (s.phys (p.entryAddr l)) false)) := by
  rw [exec_walkNext_active hh hw ((physBitsValid_iff s).mpr hp), advance_of_fatal (advanceOnce_error hi hc ha), ← hw]
  rfl

theorem frameTest_read {s : State} (hh : s.halted = false) (hl : s.lifecycle ≠ .uninit)
    (hf : s.args.v0.toNat < s.bitmap.frameCount.toNat) :
    exec .frameTest s = (readByte (s.frameByteAddr s.args.v0.toNat) s).orFatal fun b s1 =>
      .next (finish { Quad.zero with v0 := boolWord (b.getLsbD (s.args.v0.toNat % 8)) } s1) := by
  rw [exec_frameTest (gate_none hh (permits_query (.inr (.inl rfl)) hl)), if_neg (by omega)]

/-- FRAME_FREE of one tracked 4 KiB page is its clearing loop (44_frame_allocator.md R242). -/
theorem frameFree_small {s : State} {f : Nat} (hh : s.halted = false) (hl : s.lifecycle = .built ∨ s.lifecycle = .inuse)
    (h0 : s.args.v0.toNat = 4096 * f) (h1 : s.args.v1 = 0) (hf : f < s.bitmap.frameCount.toNat) :
    exec .frameFree s = (freeFrames 1 f 0 { s with lifecycle := .inuse }).orFatal fun cleared s1 =>
      .next (finish { Quad.zero with v0 := BitVec.ofNat 64 cleared } s1) := by
  have hg : gate .frameFree s = none := gate_none hh ((permits_use_iff s (.inr (.inr rfl))).mpr hl)
  have hsz : pageSizeOf s.args.v1 = some .kib4 := by rw [h1]; rfl
  have hdiv : s.args.v0.toNat / frameSize = f := by unfold frameSize; omega
  rw [exec_frameFree hg, hsz]
  dsimp only [Option.elim]
  rw [hdiv, if_neg (by simp [h0, frameSize, pageFrames]), if_neg (by simp only [pageFrames]; omega), State.freePage, hdiv]
  rfl

theorem frameFree_write_error {s : State} {f : Nat} {x : Byte} {rest : List PortAnswer} (hh : s.halted = false)
    (hc : s.config.portCanError = true) (hl : s.lifecycle = .built ∨ s.lifecycle = .inuse)
    (h0 : s.args.v0.toNat = 4096 * f) (h1 : s.args.v1 = 0) (hf : f < s.bitmap.frameCount.toNat)
    (hbit : s.frameBit f = true) (ha : s.answers = .normal :: .error x :: rest) :
    exec .frameFree s = .next (({ s with
        answers := rest, lifecycle := .inuse, mem := s.mem.write (s.frameByteAddr f) x } : State).faulted
      (busError (s.frameByteAddr f) true)) := by
  have hread := readByte_normal (s := { s with lifecycle := .inuse }) (s.frameByteAddr f) ha
  have hwrite := writeByte_error (s := { s with lifecycle := .inuse, answers := .error x :: rest }) (s.frameByteAddr f)
    (clearBit (s.mem.read (s.frameByteAddr f)) (f % 8)) hc rfl
  have hset : (s.mem.read (s.frameByteAddr f)).getLsbD (f % 8) = true := hbit
  rw [frameFree_small hh hl h0 h1 hf, freeFrames]
  simp only [show ({ s with lifecycle := .inuse } : State).frameByteAddr f = s.frameByteAddr f from rfl, hread, hset,
    if_true, hwrite]
  rfl

/-- Settles O54: each of the four accesses, answered with an error. -/
theorem busErrors : Obligations.BusErrors := by
  intro s hh hc
  refine ⟨?_, ?_, ?_, ?_⟩
  · intro x rest hl hf ha
    rw [frameTest_read hh hl hf, readByte_error _ hc ha]
    rfl
  · intro f x rest hl h0 h1 hf hbit ha
    exact frameFree_write_error hh hc hl h0 h1 hf hbit ha
  · intro x rest hl hv hm hp hn ha
    rw [arenaFind_error (before := []) hh hc ha (fun _ => List.not_mem_nil) hv hl hm hp
      (by show 0 < 3 * s.mmapCount.toNat; omega)]
    have haddr : s.entryAddr 0 + BitVec.ofNat 64 (8 * 0) = s.mmapBase := by
      simp [State.entryAddr]
    simp only [List.length_nil, Nat.zero_div, Nat.zero_mod, haddr]
    rfl
  · intro l p x rest hw hi hp ha
    exact walkNext_error hh hc hw hi hp ha

/-- A leaf entry read by WALK_NEXT is a record of a 4 KiB page (43_page_walker.md R204, R210), whatever read it. -/
theorem walkNext_leaf {s s1 : State} {p : WalkPos} {e : Word} (hh : s.halted = false) (hw : s.walker = .active .l1 p)
    (hpath : p.onPath .l1) (hi : p.idx1.val < 512) (hp : 13 ≤ s.physBits ∧ s.physBits ≤ 52)
    (hr : readWord (s.phys (p.entryAddr .l1)) s = .ok e s1) (he : entryPresent e = true)
    (hv : violation .l1 e s1.physBits s1.nxe = 0) :
    exec .walkNext s = .next (finish
      { v0 := canonicalAddress p.idx4 p.idx3 p.idx2 p.idx1, v1 := e &&& 0x000FFFFFFFFFF000, v2 := 0, v3 := 1 }
      { s1 with walker := .active .l1 (p.bump .l1) }) := by
  have hva : virtualAddress p.idx4 p.idx3 p.idx2 p.idx1 = canonicalAddress p.idx4 p.idx3 p.idx2 p.idx1 :=
    virtualAddress_eq (hpath .l4 (by decide)) (hpath .l3 (by decide)) (hpath .l2 (by decide)) hi
  have hone : advanceOnce .l1 p s = followEntry .l1 p e s1 :=
    (advanceOnce_read (l := .l1) hi hr).trans (visitEntry_clean he hv)
  rw [exec_walkNext_active hh hw ((physBitsValid_iff s).mpr hp), ← hva, advance_of_record hone]
  rfl

/-- Settles O55: the value that raced is the value the command goes on with. -/
theorem racingReads : Obligations.RacingReads := by
  intro s v rest hh ha
  refine ⟨fun hl hf => ?_, fun p hw hpath hi hp hpres hv => ?_⟩
  · have hbit : (v.setWidth 8).getLsbD (s.args.v0.toNat % 8) = v.getLsbD (s.args.v0.toNat % 8) := by
      rw [BitVec.getLsbD_setWidth, decide_eq_true (Nat.mod_lt _ (by omega)), Bool.true_and]
    rw [frameTest_read hh hl hf, readByte_raced _ ha, Access.orFatal_ok, hbit]
    rfl
  · rw [walkNext_leaf hh hw hpath hi hp (readWord_raced _ ha) hpres hv]
    rfl

end Sys2Proof.Machine
end

section
/-! Where an error of the port ends the commands that make many accesses (20_memory.md R71, R78, R81; O59): the accesses
before it answered normally do what they do in a quiet command. -/

namespace Sys2Proof.Machine

/-! ### The CR3 value -/

theorem getLsbD_addrMask {n : Nat} (hn : n < 64) : addrMask.getLsbD n = decide (12 ≤ n ∧ n ≤ 51) := by
  revert n
  decide

theorem getLsbD_physMask (m : Nat) {n : Nat} (hn : n < 64) :
    (physMask m).getLsbD n = decide (12 ≤ n ∧ n ≤ 51 ∧ m ≤ n) := by
  unfold physMask
  rw [BitVec.getLsbD_and, getLsbD_addrMask hn, BitVec.getLsbD_not, BitVec.getLsbD_ofNat, Nat.testBit_two_pow_sub_one]
  grind

/-- The check of R206 on a CR3 value passes exactly when no bit of 51:PHYS_BITS is set. -/
theorem and_physMask_eq_zero_iff {s : State} (hp : 13 ≤ s.physBits) (cr3 : Word) :
    cr3 &&& physMask s.physBits = 0 ↔ ¬ s.rootReserved cr3 := by
  constructor
  · rintro h ⟨n, h1, h2, hbit⟩
    have hn := congrArg (BitVec.getLsbD · n) h
    simp only [BitVec.getLsbD_and, hbit, getLsbD_physMask s.physBits (show n < 64 by omega)] at hn
    simp at hn
    omega
  · intro h
    apply BitVec.eq_of_getLsbD_eq
    intro n hn
    rw [BitVec.getLsbD_and, getLsbD_physMask _ hn]
    by_contra hne
    simp at hne
    exact h ⟨n, hne.2.2.2, hne.2.2.1, hne.1⟩

theorem walkOpen_of {s : State} (hp : 13 ≤ s.physBits ∧ s.physBits ≤ 52) (hr : ¬ s.rootReserved s.args.v0) :
    s.walkOpen :=
  ⟨(physBitsValid_iff s).mpr hp, (and_physMask_eq_zero_iff hp.1 _).mpr hr⟩

theorem walkWhole_error_first (visit : Nat → Tally → State → Access Tally) {s : State} {x : Byte}
    {rest : List PortAnswer} (hc : s.config.portCanError = true) (ha : s.answers = .error x :: rest) (ho : s.walkOpen) :
    walkWhole visit s = .next (({ s with answers := rest, walker := .active .l4 (.init s.args.v0) } : State).faulted
      (busError (s.phys (rootTable s.args.v0)) false)) := by
  rw [walkWhole_open visit ho, walkAll_error_first (s := s.atRoot) ha hc]
  rfl

theorem freeCount_error {s : State} {before rest : List PortAnswer} {y : Byte} (hh : s.halted = false)
    (hc : s.config.portCanError = true) (hs : s.answers = before ++ .error y :: rest) (hb : ∀ y, .error y ∉ before)
    (hl : s.lifecycle ≠ .uninit) (hlt : before.length < s.bitmap.bytes.toNat) :
    exec .freeCount s = .next (({ s with answers := rest } : State).faulted
      (busError (s.bitmapAddr before.length) false)) := by
  obtain ⟨a, w, ⟨_, rfl, rfl⟩, e⟩ :=
    (countFree_port s.bitmap.bytes.toNat 0 0 s).error_at (countFree_readStep _ 0 0 s) hc hs hb hlt
  rw [exec_freeCount (gate_none hh (permits_query (.inr (.inr rfl)) hl)), e, Nat.zero_add]
  rfl

/-! ### The scan of FRAME_ALLOC -/

theorem frameBit_of_byte (s : State) (k : Nat) {i : Nat} (hi : i < 8) :
    s.frameBit (8 * k + i) = (s.mem.read (s.bitmapAddr k)).getLsbD i := by
  unfold State.frameBit State.frameByteAddr
  rw [show (8 * k + i) / 8 = k by omega, show (8 * k + i) % 8 = i by omega]

/-- A byte whose eight frames are all used is all ones. -/
theorem read_full {s : State} {k : Nat} (h : ∀ i, i < 8 → s.frameBit (8 * k + i) = true) :
    s.mem.read (s.bitmapAddr k) = 0xFF := by
  apply BitVec.eq_of_getLsbD_eq
  intro i hi
  have hones : ∀ i, i < 8 → (0xFF : Byte).getLsbD i = true := by decide
  rw [← frameBit_of_byte s k hi, h i hi, hones i hi]

/-- The scan passes over full bytes, one normal read each (44_frame_allocator.md R240). -/
theorem scanFree_skip {d n j : Nat} {s : State} {rest : List PortAnswer}
    (ha : s.answers = List.replicate d .normal ++ rest)
    (hfull : ∀ g, 8 * j ≤ g → g < 8 * (j + d) → s.frameBit g = true) :
    scanFree (d + n) j s = scanFree n (j + d) { s with answers := rest } := by
  induction d generalizing j s with
  | zero =>
    have hs : ({ s with answers := rest } : State) = s := by rw [← ha.trans (List.nil_append _)]
    rw [hs, Nat.zero_add, Nat.add_zero]
  | succ d ih =>
    rw [List.replicate_succ, List.cons_append] at ha
    have hbyte := read_full (s := s) (k := j) fun i hi => hfull _ (by omega) (by omega)
    rw [show d + 1 + n = d + n + 1 by omega, scanFree, readByte_normal _ ha]
    have hrest := ih (j := j + 1) (s := { s with answers := List.replicate d .normal ++ rest }) rfl
      fun g h1 h2 => hfull g (by omega) (by omega)
    rw [Nat.add_right_comm j 1 d] at hrest
    dsimp only
    rw [if_pos hbyte]
    exact hrest

/-- The first free bit of a byte (R240). -/
theorem firstFree_eq {fc j i : Nat} {b : Byte} (hi : i < 8) (hf : 8 * j + i < fc) (hfree : b.getLsbD i = false)
    (hused : ∀ k, k < i → b.getLsbD k = true) : firstFree fc j b = some i := by
  unfold firstFree
  rw [List.find?_range_eq_some]
  refine ⟨by simp [hfree, hf], List.mem_range.mpr hi, fun k hk => by simp [hused k hk]⟩

/-- The scan stops where a read is answered with an error. -/
theorem scanFree_read_error {n j : Nat} {s : State} {x : Byte} {rest : List PortAnswer}
    (hc : s.config.portCanError = true) (ha : s.answers = .error x :: rest) :
    scanFree (n + 1) j s = .fatal (busError (s.bitmapAddr j) false) { s with answers := rest } := by
  rw [scanFree, readByte_error _ hc ha]

/-- The scan stops where the write of the bit it found is answered with an error. -/
theorem scanFree_write_error {n j k : Nat} {s : State} {x : Byte} {rest : List PortAnswer}
    (hc : s.config.portCanError = true) (ha : s.answers = .normal :: .error x :: rest)
    (hfree : (s.mem.read (s.bitmapAddr j)).getLsbD k = false) (hk : k < 8)
    (hfirst : firstFree s.bitmap.frameCount.toNat j (s.mem.read (s.bitmapAddr j)) = some k) :
    scanFree (n + 1) j s =
      .fatal (busError (s.bitmapAddr j) true) { s with answers := rest, mem := s.mem.write (s.bitmapAddr j) x } := by
  have hbyte : s.mem.read (s.bitmapAddr j) ≠ 0xFF := by
    intro hfull
    have hones : ∀ i, i < 8 → (0xFF : Byte).getLsbD i = true := by decide
    rw [hfull, hones k hk] at hfree
    cases hfree
  have hwrite := writeByte_error (s := { s with answers := .error x :: rest }) (s.bitmapAddr j)
    (setBit (s.mem.read (s.bitmapAddr j)) k) hc rfl
  rw [scanFree, readByte_normal _ ha]
  dsimp only
  rw [if_neg hbyte, hfirst]
  dsimp only
  rw [hwrite]

theorem frameAlloc_read_error {s : State} {j : Nat} {x : Byte} {rest : List PortAnswer} (hh : s.halted = false)
    (hc : s.config.portCanError = true) (hl : s.lifecycle = .built ∨ s.lifecycle = .inuse)
    (hj : j < s.bitmap.bytes.toNat) (ha : s.answers = List.replicate j .normal ++ .error x :: rest)
    (hfull : ∀ g, g < 8 * j → s.frameBit g = true) :
    exec .frameAlloc s = .next (({ s with answers := rest, lifecycle := .inuse } : State).faulted
      (busError (s.bitmapAddr j) false)) := by
  obtain ⟨n, hn⟩ : ∃ n, s.bitmap.bytes.toNat = j + (n + 1) := ⟨s.bitmap.bytes.toNat - j - 1, by omega⟩
  have hskip := scanFree_skip (n := n + 1) (j := 0) (s := { s with lifecycle := .inuse }) ha
    fun g _ h => hfull g (by omega)
  have hstop := hskip.trans (scanFree_read_error hc rfl)
  rw [exec_frameAlloc (gate_none hh ((permits_use_iff s (.inr (.inl rfl))).mpr hl)), hn, hstop, Nat.zero_add]
  rfl

theorem frameAlloc_write_error {s : State} {f : Nat} {x : Byte} {rest : List PortAnswer} (hh : s.halted = false)
    (hc : s.config.portCanError = true) (hl : s.lifecycle = .built ∨ s.lifecycle = .inuse)
    (hcov : s.bitmap.bytes.toNat = (s.bitmap.frameCount.toNat + 7) / 8) (hf : f < s.bitmap.frameCount.toNat)
    (hfree : s.frameBit f = false) (hused : ∀ g, g < f → s.frameBit g = true)
    (ha : s.answers = List.replicate (f / 8 + 1) .normal ++ .error x :: rest) :
    exec .frameAlloc s = .next (({ s with
        answers := rest, lifecycle := .inuse, mem := s.mem.write (s.frameByteAddr f) x } : State).faulted
      (busError (s.frameByteAddr f) true)) := by
  obtain ⟨n, hn⟩ : ∃ n, s.bitmap.bytes.toNat = f / 8 + (n + 1) := ⟨s.bitmap.bytes.toNat - f / 8 - 1, by omega⟩
  have hfirst : firstFree s.bitmap.frameCount.toNat (f / 8) (s.mem.read (s.bitmapAddr (f / 8))) = some (f % 8) := by
    refine firstFree_eq (by omega) (by omega) hfree fun k hk => ?_
    rw [← frameBit_of_byte s (f / 8) (by omega)]
    exact hused _ (by omega)
  rw [List.replicate_succ', List.append_assoc, List.singleton_append] at ha
  have hskip := scanFree_skip (n := n + 1) (j := 0) (s := { s with lifecycle := .inuse }) ha
    fun g _ h => hused g (by omega)
  rw [Nat.zero_add] at hskip
  have hstop := hskip.trans (scanFree_write_error hc rfl hfree (by omega) hfirst)
  rw [exec_frameAlloc (gate_none hh ((permits_use_iff s (.inr (.inl rfl))).mpr hl)), hn, hstop]
  rfl

end Sys2Proof.Machine
end

section
/-! BITMAP_BUILD stopped at a byte it writes (42_bitmap_builder.md R180, R183-R185; O59): the map as the snapshot reads
it, the bits of the bytes written, and what the loop has stored when it stops. -/

namespace Sys2Proof.Machine

/-! ### The snapshot, and the plan it gives -/

theorem readEntry_normal {s : State} {rest : List PortAnswer} (k : Nat)
    (ha : s.answers = .normal :: .normal :: .normal :: rest) :
    readEntry k s = .ok (s.mapEntry k) { s with answers := rest } := by
  have h2 := readWord_normal (s := { s with answers := .normal :: .normal :: rest }) (s.entryAddr k + 8) rfl
  have h3 := readWord_normal (s := { s with answers := .normal :: rest }) (s.entryAddr k + 16) rfl
  rw [readEntry, readWord_normal _ ha]
  dsimp only
  rw [h2]
  dsimp only
  rw [h3]
  rfl

theorem readEntries_normal {n k : Nat} {acc : List MapEntry} {s : State} {rest : List PortAnswer}
    (ha : s.answers = List.replicate (3 * n) .normal ++ rest) :
    readEntries n k acc s = .ok (acc.reverse ++ (List.range' k n).map s.mapEntry) { s with answers := rest } := by
  induction n generalizing k acc s with
  | zero =>
    have hs : ({ s with answers := rest } : State) = s := by rw [← ha.trans (List.nil_append _)]
    rw [hs, readEntries, List.range'_zero, List.map_nil, List.append_nil]
  | succ n ih =>
    have hrest := ih (k := k + 1) (acc := s.mapEntry k :: acc)
      (s := { s with answers := List.replicate (3 * n) .normal ++ rest }) rfl
    have hthree : s.answers = .normal :: .normal :: .normal :: (List.replicate (3 * n) .normal ++ rest) := ha
    rw [readEntries, readEntry_normal k hthree]
    dsimp only
    rw [hrest, List.reverse_cons, List.append_assoc, List.range'_succ]
    rfl

/-- The entries of the memory map, in table order. -/
def State.mapEntries (s : State) : List MapEntry := (List.range s.mmapCount.toNat).map s.mapEntry

theorem snapshot_normal {s : State} {rest : List PortAnswer}
    (ha : s.answers = List.replicate (3 * s.mmapCount.toNat) .normal ++ rest) :
    snapshot s = .ok s.mapEntries { s with answers := rest } := by
  rw [snapshot, readEntries_normal ha, ← List.range_eq_range']
  rfl

/-- The largest end of an entry bounds every end, and is 0 or an end (R181). -/
theorem foldl_max_end (mm : List MapEntry) (m : Nat) :
    (∀ e ∈ mm, e.base.toNat + e.length.toNat ≤ mm.foldl (fun m e => max m (e.base.toNat + e.length.toNat)) m)
      ∧ m ≤ mm.foldl (fun m e => max m (e.base.toNat + e.length.toNat)) m
      ∧ (mm.foldl (fun m e => max m (e.base.toNat + e.length.toNat)) m = m
        ∨ ∃ e ∈ mm, e.base.toNat + e.length.toNat
            = mm.foldl (fun m e => max m (e.base.toNat + e.length.toNat)) m) := by
  induction mm generalizing m with
  | nil => exact ⟨nofun, le_refl m, .inl rfl⟩
  | cons e rest ih =>
    obtain ⟨hle, hm, heq⟩ := ih (max m (e.base.toNat + e.length.toNat))
    refine ⟨?_, le_trans (le_max_left _ _) hm, ?_⟩
    · intro e' he'
      rcases List.mem_cons.mp he' with rfl | he'
      · exact le_trans (le_max_right _ _) hm
      · exact hle e' he'
    · rcases heq with heq | ⟨e', he', heq⟩
      · rcases max_choice m (e.base.toNat + e.length.toNat) with hc | hc
        · exact .inl (heq.trans hc)
        · exact .inr ⟨e, List.mem_cons_self, (heq.trans hc).symm⟩
      · exact .inr ⟨e', List.mem_cons_of_mem e he', heq⟩

theorem mem_mapEntries {s : State} {e : MapEntry} :
    e ∈ s.mapEntries ↔ ∃ k, k < s.mmapCount.toNat ∧ s.mapEntry k = e := by
  simp [State.mapEntries]

theorem mapSpan_of_spanIs {s : State} {span : Nat} (h : s.spanIs span) : mapSpan s.mapEntries = span := by
  obtain ⟨hle, _, heq⟩ := foldl_max_end s.mapEntries 0
  obtain ⟨hbound, hreach⟩ := h
  change ∀ e ∈ s.mapEntries, _ ≤ mapSpan s.mapEntries at hle
  change mapSpan s.mapEntries = 0 ∨ ∃ e ∈ s.mapEntries, _ = mapSpan s.mapEntries at heq
  have hup : mapSpan s.mapEntries ≤ span := by
    rcases heq with h0 | ⟨e, he, h⟩
    · omega
    · obtain ⟨k, hk, rfl⟩ := mem_mapEntries.mp he
      exact h ▸ hbound k hk
  have hdown : span ≤ mapSpan s.mapEntries := by
    rcases hreach with rfl | ⟨k, hk, rfl⟩
    · omega
    · exact hle _ (mem_mapEntries.mpr ⟨k, hk, rfl⟩)
  omega

theorem entryMarks_iff (s : State) (k f : Nat) : entryMarks s.usableType f (s.mapEntry k) = true ↔ s.mapMarks k f := by
  simp only [entryMarks, Bool.and_eq_true, bne_iff_ne, decide_eq_true_eq, and_assoc]
  rfl

theorem usedByMap_iff (s : State) (f : Nat) :
    usedByMap s.usableType s.mapEntries f = true ↔ ∃ k, k < s.mmapCount.toNat ∧ s.mapMarks k f := by
  simp [usedByMap, State.mapEntries, entryMarks_iff]

/-- The value the builder gives the bit of frame f (R184). -/
theorem buildPlan_bit_iff (s : State) (start f : Nat) :
    (buildPlan s s.mapEntries start).bit f = true ↔
      mapFrames s.mapEntries ≤ f ∨ (∃ k, k < s.mmapCount.toNat ∧ s.mapMarks k f)
        ∨ (s.reserveSelf = true ∧ 0 < ceilDiv (mapFrames s.mapEntries) 8 ∧ start < 4096 * (f + 1)
            ∧ 4096 * f < start + ceilDiv (mapFrames s.mapEntries) 8) := by
  have hmap : usedByMap (buildPlan s s.mapEntries start).usable (buildPlan s s.mapEntries start).map f = true ↔ _ :=
    usedByMap_iff s f
  simp only [BuildPlan.bit, BuildPlan.holdsBitmap, Bool.or_eq_true, Bool.and_eq_true, decide_eq_true_eq, hmap, or_assoc,
    and_assoc]
  rfl

/-- The bits of the bytes the builder writes (R180, R185). -/
theorem getLsbD_buildByte (p : BuildPlan) (j : Nat) {i : Nat} (hi : i < 8) :
    (p.byte j).getLsbD i = p.bit (8 * j + i) := by
  have hfold : ∀ n, n ≤ 8 → ((List.range n).foldl (fun acc b => if p.bit (8 * j + b) then setBit acc b else acc)
      (0 : Byte)).getLsbD i = (decide (i < n) && p.bit (8 * j + i)) := by
    intro n hn
    induction n with
    | zero => simp
    | succ n ih =>
      rw [List.range_succ, List.foldl_append, List.foldl_cons, List.foldl_nil]
      have ih := ih (by omega)
      by_cases hin : i = n
      · subst hin
        split
        next hb => simp [getLsbD_setBit _ hi, hb]
        next hb => simpa [hb] using ih
      · have hlt : (i < n + 1) ↔ i < n := by omega
        split
        · rw [getLsbD_setBit _ (by omega), ih, decide_eq_false hin, Bool.or_false, decide_eq_decide.mpr hlt]
        · rw [ih, decide_eq_decide.mpr hlt]
  rw [BuildPlan.byte, hfold 8 (le_refl 8), decide_eq_true hi, Bool.true_and]

/-! ### The loop, stopped -/

/-- What a loop that writes bytes j, .., j + d - 1 and stops at byte j + d has stored (20_memory.md R78). -/
structure Stored (s : State) (byte : Nat → Byte) (x : Byte) (j d : Nat) (m : Memory) : Prop where
  before : ∀ k, j ≤ k → k < j + d → m.read (s.bitmapAddr k) = byte k
  stopped : m.read (s.bitmapAddr (j + d)) = x
  others : ∀ a, (∀ k, j ≤ k → k ≤ j + d → a ≠ s.bitmapAddr k) → m.read a = s.mem.read a

theorem buildBytes_write_error {p : BuildPlan} {d n j free : Nat} {s : State} {x : Byte} {rest : List PortAnswer}
    (hc : s.config.portCanError = true) (hwf : s.mem.wf = true)
    (ha : s.answers = List.replicate d .normal ++ .error x :: rest) (hd : d < n) (hn : j + n ≤ 2 ^ 64) :
    ∃ m, buildBytes p n j free s =
        .fatal (busError (s.bitmapAddr (j + d)) true) { s with answers := rest, mem := m }
      ∧ Stored s p.byte x j d m := by
  induction d generalizing n j free s with
  | zero =>
    obtain ⟨n, rfl⟩ : ∃ n', n = n' + 1 := ⟨n - 1, by omega⟩
    refine ⟨s.mem.write (s.bitmapAddr j) x, ?_, fun k h1 h2 => by omega, ?_, fun a h => ?_⟩
    · rw [buildBytes, writeByte_error _ _ hc (ha.trans (List.nil_append _))]
      rfl
    · rw [Memory.read_write hwf, if_pos (by rw [Nat.add_zero])]
    · exact Memory.read_write_of_ne hwf x (h j (by omega) (by omega))
  | succ d ih =>
    obtain ⟨n, rfl⟩ : ∃ n', n = n' + 1 := ⟨n - 1, by omega⟩
    rw [List.replicate_succ, List.cons_append] at ha
    obtain ⟨m, he, hbefore, hstop, hothers⟩ := ih (n := n) (j := j + 1) (free := free + p.freeIn j)
      (s := { s with
        answers := List.replicate d .normal ++ .error x :: rest, mem := s.mem.write (s.bitmapAddr j) (p.byte j) })
      hc (Memory.write_wf hwf _ _) rfl (by omega) (by omega)
    rw [Nat.add_right_comm j 1 d] at he hbefore hstop hothers
    have hother : ∀ a, (∀ k, j + 1 ≤ k → k ≤ j + (d + 1) → a ≠ s.bitmapAddr k) →
        m.read a = (s.mem.write (s.bitmapAddr j) (p.byte j)).read a := hothers
    refine ⟨m, ?_, fun k h1 h2 => ?_, hstop, fun a h => ?_⟩
    · rw [buildBytes, writeByte_normal _ _ ha]
      exact he
    · rcases Nat.eq_or_lt_of_le h1 with rfl | hlt
      · have hne : ∀ k, j + 1 ≤ k → k ≤ j + (d + 1) → s.bitmapAddr j ≠ s.bitmapAddr k := by
          intro k h1 h2 heq
          have := bitmapAddr_inj (by omega) (by omega) heq
          omega
        rw [hother _ hne, Memory.read_write hwf, if_pos rfl]
      · exact hbefore k hlt h2
    · rw [hother a fun k h1 h2 => h k (by omega) h2]
      exact Memory.read_write_of_ne hwf _ (h j (by omega) (by omega))

/-- The state in which BITMAP_BUILD stopped among its writes (R180, R309). -/
def State.buildStopped (s : State) (frames : Nat) (rest : List PortAnswer) (m : Memory) : State :=
  { s with
    mem := m, answers := rest
    arena := { s.arena with cursor := BitVec.ofNat 64 (s.arena.cursor.toNat + (frames + 7) / 8) }
    bitmap := { base := s.arena.cursor, bytes := BitVec.ofNat 64 ((frames + 7) / 8)
                frameCount := BitVec.ofNat 64 frames } }

theorem building_eq (s : State) (answers : List PortAnswer) (frames : Nat) :
    ({ s with answers := answers } : State).building s.arena.cursor.toNat frames =
      s.buildStopped frames answers s.mem := by
  simp only [State.building, State.beforeBuild, State.setBitmap, State.buildStopped, BitVec.ofNat_toNat,
    BitVec.setWidth_eq]
  rfl

/-- BITMAP_BUILD, its map read normally, stopped at byte j of its writes. -/
theorem bitmapBuild_write_error {s : State} {j : Nat} {x : Byte} {rest : List PortAnswer} (hh : s.halted = false)
    (hc : s.config.portCanError = true) (hl : s.lifecycle = .uninit) (hv : s.arenaValid = true) (hm : ¬ s.overMax)
    (hwf : s.mem.wf = true)
    (hfit : s.arena.cursor.toNat + ceilDiv (mapFrames s.mapEntries) 8 ≤ s.arena.limit.toNat)
    (hj : j < ceilDiv (mapFrames s.mapEntries) 8)
    (ha : s.answers = List.replicate (3 * s.mmapCount.toNat + j) .normal ++ .error x :: rest) :
    ∃ m, exec .bitmapBuild s = .next ((s.buildStopped (mapFrames s.mapEntries) rest m).faulted
          (busError ((s.buildStopped (mapFrames s.mapEntries) rest m).bitmapAddr j) true))
      ∧ Stored (s.buildStopped (mapFrames s.mapEntries) rest s.mem)
          (buildPlan s s.mapEntries s.arena.cursor.toNat).byte x 0 j m := by
  have hg : gate .bitmapBuild s = none := gate_none hh (by simp [permits, hl, hv])
  have hlt := ceilDiv_mapFrames_lt s.mapEntries
  rw [List.replicate_add, List.append_assoc] at ha
  obtain ⟨m, he, hstored⟩ := buildBytes_write_error (free := 0) (j := 0)
    (p := buildPlan s s.mapEntries s.arena.cursor.toNat)
    (s := s.buildStopped (mapFrames s.mapEntries) (List.replicate j .normal ++ .error x :: rest) s.mem)
    hc hwf rfl hj (by omega)
  rw [Nat.zero_add] at he
  refine ⟨m, ?_, hstored.before, hstored.stopped, hstored.others⟩
  rw [exec_bitmapBuild hg, mmapTooLong_false hm, snapshot_normal ha, if_neg nofun, Access.orFatal_ok,
    State.afterSnapshot, if_neg (by dsimp only; omega), State.buildAt, building_eq, he]
  rfl

/-- The bits of the bytes BITMAP_BUILD has written when it stops. -/
theorem buildStopped_frameBit {s : State} {frames j : Nat} {p : BuildPlan} {x : Byte} {rest : List PortAnswer} {m : Memory}
    (h : Stored (s.buildStopped frames rest s.mem) p.byte x 0 j m) {f : Nat} (hf : f < 8 * j) :
    (s.buildStopped frames rest m).frameBit f = p.bit f := by
  have hbyte : m.read ((s.buildStopped frames rest m).bitmapAddr (f / 8)) = p.byte (f / 8) :=
    h.before (f / 8) (by omega) (by omega)
  have hbit := frameBit_of_byte (s.buildStopped frames rest m) (f / 8) (i := f % 8) (by omega)
  rw [show 8 * (f / 8) + f % 8 = f by omega] at hbit
  rw [hbit]
  show (m.read _).getLsbD _ = _
  rw [hbyte, getLsbD_buildByte p _ (by omega), show 8 * (f / 8) + f % 8 = f by omega]

/-- Settles O59, by the access the error answers: a word of the map, a byte of the build, the first entry of a walk, a
byte of FREE_COUNT, a byte FRAME_ALLOC reads or writes. -/
theorem busErrorsInLoops : Obligations.BusErrorsInLoops := by
  intro s before rest x hh hc hs hb
  refine ⟨?_, ?_, ?_, fun hl hlt => freeCount_error hh hc hs hb hl hlt, fun hinv hl => ⟨?_, ?_⟩⟩
  · rintro i (⟨rfl, hv, hp⟩ | ⟨rfl, hv⟩) hl hm hlt
    · exact arenaFind_error hh hc hs hb hv hl hm hp hlt
    · rw [exec_bitmapBuild (gate_none hh (by simp [permits, hl, hv])), mmapTooLong_false hm, snapshot_error hc hs hb hlt]
      rfl
  · rintro span nb j hl hv hm hwf hspan rfl hfit hj rfl
    have hframes : mapFrames s.mapEntries = span / 4096 := by
      rw [mapFrames, mapSpan_of_spanIs hspan]
      rfl
    have hceil : ceilDiv (span / 4096) 8 = (span / 4096 + 7) / 8 := rfl
    obtain ⟨m, he, hstored⟩ := bitmapBuild_write_error hh hc hl hv hm hwf (by rw [hframes, hceil]; exact hfit)
      (by rw [hframes, hceil]; exact hj) hs
    rw [hframes] at he hstored
    refine ⟨m, s.buildStopped (span / 4096) rest m, rfl, he, fun f hf => ?_, ?_, fun a h => ?_⟩
    · rw [buildStopped_frameBit hstored hf, buildPlan_bit_iff, hframes, hceil]
    · have := hstored.stopped
      rwa [Nat.zero_add] at this
    · exact hstored.others a fun k _ hk => h k (by omega)
  · rintro i hi hp hr rfl
    have ho := walkOpen_of hp hr
    have ha : s.answers = .error x :: rest := hs
    rcases hi with ⟨rfl, hl⟩ | ⟨rfl, hl⟩
    · rw [exec_walkCheck (gate_none hh (permits_query (.inl rfl) hl)), walkWhole_error_first _ hc ha ho]
      rfl
    · rw [exec_walkMark (gate_none hh ((permits_use_iff s (.inl rfl)).mpr hl)), walkWhole_error_first _ hc ha ho]
      rfl
  · rintro j hj rfl hfull
    exact frameAlloc_read_error hh hc hl hj hs hfull
  · rintro f hf hfree hused rfl
    exact frameAlloc_write_error hh hc hl hinv.bitmapCovers hf hfree hused hs

end Sys2Proof.Machine
end

section
/-! ADVANCE against the enumeration of the mappings (43_page_walker.md R202-R211). An iteration at a position, its entry
read as the enumeration `v` reads it, takes the first of the mappings ahead, skips what maps nothing, or meets the fault
that stops the enumeration. `T` holds the tables the walk reaches, so that memory needs to agree with `v` there only. -/

namespace Sys2Proof.Machine

/-! ### The enumeration -/

theorem andThen_assoc (a b c : Enumeration) : (a.andThen b).andThen c = a.andThen (b.andThen c) := by
  obtain ⟨ra, _ | fa⟩ := a
  · obtain ⟨rb, _ | fb⟩ := b
    · simp only [Enumeration.andThen, List.append_assoc]
    · rfl
  · rfl

theorem nothing_andThen (a : Enumeration) : Enumeration.nothing.andThen a = a := rfl

theorem fault_andThen (f : FatalFault) (a : Enumeration) : (Enumeration.fault f).andThen a = .fault f := rfl

theorem gather_end (f : Nat → Enumeration) {i : Nat} (hi : i = 512) : gather f (indicesFrom i) = .nothing := by
  rw [hi]
  rfl

theorem gather_step (f : Nat → Enumeration) {i : Nat} (hi : i < 512) :
    gather f (indicesFrom i) = (f i).andThen (gather f (indicesFrom (i + 1))) := by
  have hlist : indicesFrom i = i :: indicesFrom (i + 1) := by
    unfold indicesFrom
    rw [show 512 - i = (512 - (i + 1)) + 1 by omega, List.range'_succ]
  rw [hlist, gather]

/-- The mappings of the entry at the position. -/
def TableView.mapAt (v : TableView) (l : Level) (p : WalkPos) : Enumeration :=
  match l with
  | .l4 => v.mapL4 p.tbl4 p.idx4
  | .l3 => v.mapL3 p.idx4 p.tbl3 p.idx3
  | .l2 => v.mapL2 p.idx4 p.idx3 p.tbl2 p.idx2
  | .l1 => v.mapL1 p.idx4 p.idx3 p.idx2 p.tbl1 p.idx1

/-- The entry at the position, as the enumeration reads it. -/
def TableView.entryOf (v : TableView) (l : Level) (p : WalkPos) : Word := v.at (p.tbl l) (p.idx l).val

/-- The mappings ahead are those of the entry at the position, then those past it. -/
theorem ahead_step (v : TableView) {l : Level} {p : WalkPos} (h : (p.idx l).val < 512) :
    v.ahead l p = (v.mapAt l p).andThen (v.ahead l (p.bump l)) := by
  have hs : (idxSucc (p.idx l)).val = (p.idx l).val + 1 := idxSucc_val (by omega)
  cases l
  case l1 =>
    show (gather _ (indicesFrom (p.idx .l1))).andThen _ = _
    rw [gather_step _ h, ← hs, andThen_assoc]
    rfl
  case l2 =>
    show (gather _ (indicesFrom (p.idx .l2))).andThen _ = _
    rw [gather_step _ h, ← hs, andThen_assoc]
    rfl
  case l3 =>
    show (gather _ (indicesFrom (p.idx .l3))).andThen _ = _
    rw [gather_step _ h, ← hs, andThen_assoc]
    rfl
  case l4 =>
    show gather _ (indicesFrom (p.idx .l4)) = _
    rw [gather_step _ h, ← hs]
    rfl

/-- Past the end of a table the mappings ahead are those past the entry above that led down. -/
theorem ahead_pop (v : TableView) {l l' : Level} {p : WalkPos} (h : (p.idx l).val = 512) (hp : p.onPath l)
    (hl : levelNumber l' = levelNumber l + 1) : v.ahead l p = v.ahead l' (p.bump l') := by
  have hs : (idxSucc (p.idx l')).val = (p.idx l').val + 1 := by
    have := hp l' (by omega)
    exact idxSucc_val (by omega)
  cases l <;> cases l' <;> cases hl
  case l1.l2 =>
    show (gather _ (indicesFrom (p.idx .l1))).andThen _ = _
    rw [gather_end _ h, nothing_andThen]
    show (gather _ (indicesFrom ((p.idx .l2).val + 1))).andThen _ = _
    rw [← hs]
    rfl
  case l2.l3 =>
    show (gather _ (indicesFrom (p.idx .l2))).andThen _ = _
    rw [gather_end _ h, nothing_andThen]
    show (gather _ (indicesFrom ((p.idx .l3).val + 1))).andThen _ = _
    rw [← hs]
    rfl
  case l3.l4 =>
    show (gather _ (indicesFrom (p.idx .l3))).andThen _ = _
    rw [gather_end _ h, nothing_andThen]
    show gather _ (indicesFrom ((p.idx .l4).val + 1)) = _
    rw [← hs]
    rfl

theorem ahead_end (v : TableView) {p : WalkPos} (h : (p.idx .l4).val = 512) : v.ahead .l4 p = .nothing :=
  gather_end _ h

/-- The level below. -/
def belowOf : Level → Level
  | .l4 => .l3
  | .l3 => .l2
  | .l2 => .l1
  | .l1 => .l1

/-- The mappings of the table at `a` that the entry at the position leads to. -/
def TableView.entered (v : TableView) (l : Level) (p : WalkPos) (a : Word) : Enumeration :=
  match l with
  | .l4 => gather (v.mapL3 p.idx4 a) (indicesFrom 0)
  | .l3 => gather (v.mapL2 p.idx4 p.idx3 a) (indicesFrom 0)
  | .l2 => gather (v.mapL1 p.idx4 p.idx3 p.idx2 a) (indicesFrom 0)
  | .l1 => .nothing

/-- The mappings ahead of the first entry of the table entered: all of that table, then those past the entry. -/
theorem ahead_enter (v : TableView) {l : Level} {p : WalkPos} (hl : l ≠ .l1) (h : (p.idx l).val < 512) (a : Word) :
    v.ahead (belowOf l) (p.enter (belowOf l) a) = (v.entered l p a).andThen (v.ahead l (p.bump l)) := by
  have hs : (p.idx l).val + 1 = (idxSucc (p.idx l)).val := (idxSucc_val (by omega)).symm
  cases l
  case l1 => exact absurd rfl hl
  case l2 =>
    show (gather _ _).andThen ((gather _ (indicesFrom ((p.idx .l2).val + 1))).andThen _) = _
    rw [hs]
    rfl
  case l3 =>
    show (gather _ _).andThen ((gather _ (indicesFrom ((p.idx .l3).val + 1))).andThen _) = _
    rw [hs]
    rfl
  case l4 =>
    show (gather _ _).andThen (gather _ (indicesFrom ((p.idx .l4).val + 1))) = _
    rw [hs]
    rfl

/-- The mappings of a present entry without reserved bits (R207, R208, R210). -/
def TableView.mapFollow (v : TableView) (l : Level) (p : WalkPos) (e : Word) : Enumeration :=
  match l with
  | .l1 => .one { va := canonicalAddress p.idx4 p.idx3 p.idx2 p.idx1, pa := e &&& 0x000FFFFFFFFFF000, size := .kib4 }
  | .l2 =>
    if entryLarge e then .one { va := canonicalAddress p.idx4 p.idx3 p.idx2 0, pa := e &&& 0x000FFFFFFFE00000, size := .mib2 }
    else v.entered .l2 p (e &&& addrMask)
  | .l3 => if entryLarge e then .fault (unsupportedPage (p.entryAddr .l3) e) else v.entered .l3 p (e &&& addrMask)
  | .l4 => v.entered .l4 p (e &&& addrMask)

theorem mapAt_eq (v : TableView) (l : Level) (p : WalkPos) :
    v.mapAt l p =
      if !entryPresent (v.entryOf l p) then .nothing
      else if v.faulty l (v.entryOf l p) then .fault (reservedBit (levelNumber l) (p.entryAddr l) (v.entryOf l p))
      else v.mapFollow l p (v.entryOf l p) := by
  cases l <;> rfl

/-! ### What a walk reads -/

/-- The tables that entries of tables in `T` lead to are in `T` again, by level. -/
def TableView.Closed (v : TableView) (T : Level → Word → Prop) : Prop :=
  (∀ a i, T .l4 a → i < 512 → entryPresent (v.at a i) → T .l3 (v.at a i &&& addrMask))
    ∧ (∀ a i, T .l3 a → i < 512 → entryPresent (v.at a i) → T .l2 (v.at a i &&& addrMask))
    ∧ (∀ a i, T .l2 a → i < 512 → entryPresent (v.at a i) → entryLarge (v.at a i) = false →
        T .l1 (v.at a i &&& addrMask))

/-- A quiet state in which the tables in `T` hold what the enumeration reads. -/
structure State.Reads (s : State) (v : TableView) (T : Level → Word → Prop) : Prop where
  quiet : s.quiet
  physBits : s.physBits = v.physBits
  nxe : s.nxe = v.nxe
  entry : ∀ l a i, T l a → i < 512 → s.tables.at a i = v.at a i

/-- The tables of the position from its level up are in `T`. -/
def WalkPos.within (p : WalkPos) (l : Level) (T : Level → Word → Prop) : Prop :=
  ∀ l', levelNumber l ≤ levelNumber l' → T l' (p.tbl l')

theorem WalkPos.within_bump {p : WalkPos} {l l' : Level} {T : Level → Word → Prop} (h : p.within l T)
    (hl : levelNumber l ≤ levelNumber l') : (p.bump l').within l' T := fun k hk => by
  rw [tbl_bump]
  exact h k (by omega)

theorem WalkPos.within_enter {p : WalkPos} {l : Level} {T : Level → Word → Prop} {a : Word} (h : p.within l T)
    (ha : T (belowOf l) a) : (p.enter (belowOf l) a).within (belowOf l) T := fun k hk => by
  rw [tbl_enter]
  split
  next he => exact he ▸ ha
  next hne =>
    refine h k ?_
    revert hk hne
    cases l <;> cases k <;> simp [belowOf, levelNumber]

/-! ### One iteration -/

/-- What an iteration at a position does, against the mappings ahead of it. -/
def WalkIter.Matches (v : TableView) (T : Level → Word → Prop) (l : Level) (p : WalkPos) (s : State) (it : WalkIter) :
    Prop :=
  match it with
  | .again l' p' s' => s' = s ∧ v.ahead l p = v.ahead l' p' ∧ p'.within l' T
  | .record r l' p' s' =>
    s' = { s with walker := .active l' p' } ∧ v.ahead l p = (Enumeration.one r).andThen (v.ahead l' p') ∧ p'.within l' T
  | .exhausted s' => s' = { s with walker := .done p } ∧ v.ahead l p = .nothing
  | .fatal f s' =>
    s' = { s with walker := .active l p } ∧ v.ahead l p = .fault f ∧ f.info1 = entryAt (p.tbl l) (p.idx l).val

section
variable {v : TableView} {T : Level → Word → Prop} {l : Level} {p : WalkPos} {s : State}

theorem popTable_matches (h : (p.idx l).val = 512) (hp : p.onPath l) (hw : p.within l T) :
    (popTable l p s).Matches v T l p s := by
  cases l
  case l1 => exact ⟨rfl, ahead_pop v h hp rfl, WalkPos.within_bump hw (by decide)⟩
  case l2 => exact ⟨rfl, ahead_pop v h hp rfl, WalkPos.within_bump hw (by decide)⟩
  case l3 => exact ⟨rfl, ahead_pop v h hp rfl, WalkPos.within_bump hw (by decide)⟩
  case l4 => exact ⟨rfl, ahead_end v h⟩

/-- A record yielded at the position (R204, R210). -/
theorem yieldRecord_matches {r : WalkRecord} (h : (p.idx l).val < 512) (hw : p.within l T)
    (hm : v.mapAt l p = .one r) : (yieldRecord r l p s).Matches v T l p s := by
  refine ⟨rfl, ?_, WalkPos.within_bump hw (le_refl _)⟩
  rw [ahead_step v h, hm]

/-- A fault at the position. -/
theorem fatal_matches {f : FatalFault} (h : (p.idx l).val < 512) (hm : v.mapAt l p = .fault f)
    (hf : f.info1 = p.entryAddr l) : (WalkIter.fatal f { s with walker := .active l p }).Matches v T l p s :=
  ⟨rfl, by rw [ahead_step v h, hm, fault_andThen], hf⟩

/-- The table an entry points to, entered (R204). -/
theorem enter_matches {a : Word} (hl : l ≠ .l1) (h : (p.idx l).val < 512) (hw : p.within l T)
    (hm : v.mapAt l p = v.entered l p a) (ha : T (belowOf l) a) :
    (WalkIter.again (belowOf l) (p.enter (belowOf l) a) s).Matches v T l p s :=
  ⟨rfl, by rw [ahead_enter v hl h, ahead_step v h, hm], WalkPos.within_enter hw ha⟩

theorem start2M_eq (e : Word) : start2M e = e &&& 0x000FFFFFFFE00000 := by
  rw [start2M, BitVec.and_assoc]
  rfl

theorem followEntry_matches (hc : v.Closed T) (h : (p.idx l).val < 512) (hp : p.onPath l) (hw : p.within l T)
    (hpres : entryPresent (v.entryOf l p) = true) (hm : v.mapAt l p = v.mapFollow l p (v.entryOf l p)) :
    (followEntry l p (v.entryOf l p) s).Matches v T l p s := by
  obtain ⟨hc4, hc3, hc2⟩ := hc
  cases l
  case l1 =>
    have hva := virtualAddress_eq (hp .l4 (by decide)) (hp .l3 (by decide)) (hp .l2 (by decide)) h
    exact yieldRecord_matches h hw (hm.trans (congrArg (fun va => Enumeration.one { va := va, .. }) hva.symm))
  case l2 =>
    have hva := virtualAddress_eq (i1 := 0) (hp .l4 (by decide)) (hp .l3 (by decide)) h (by decide)
    simp only [followEntry]
    split
    next hlarge =>
      refine yieldRecord_matches h hw ?_
      rw [hm, TableView.mapFollow, if_pos hlarge, start2M_eq]
      exact congrArg (fun va => Enumeration.one { va := va, .. }) hva.symm
    next hsmall =>
      refine enter_matches (by decide) h hw (hm.trans (if_neg hsmall)) ?_
      exact hc2 _ _ (hw .l2 (le_refl _)) h hpres (Bool.eq_false_iff.mpr hsmall)
  case l3 =>
    simp only [followEntry]
    split
    next hlarge => exact fatal_matches h (hm.trans (if_pos hlarge)) rfl
    next hsmall =>
      refine enter_matches (by decide) h hw (hm.trans (if_neg hsmall)) ?_
      exact hc3 _ _ (hw .l3 (le_refl _)) h hpres
  case l4 => exact enter_matches (by decide) h hw hm (hc4 _ _ (hw .l4 (le_refl _)) h hpres)

/-- An iteration of ADVANCE does what the mappings ahead say. -/
theorem advanceOnce_matches (hs : s.Reads v T) (hc : v.Closed T) (hp : p.onPath l) (hw : p.within l T) :
    (advanceOnce l p s).Matches v T l p s := by
  by_cases hend : (p.idx l).val = 512
  · rw [advanceOnce_end hend]
    exact popTable_matches hend hp hw
  have h : (p.idx l).val < 512 := by omega
  have hentry : s.mem.readWord (s.phys (p.entryAddr l)) = v.entryOf l p := hs.entry l _ _ (hw l (le_refl _)) h
  have hviol : violation l (v.entryOf l p) s.physBits s.nxe = violation l (v.entryOf l p) v.physBits v.nxe := by
    rw [hs.physBits, hs.nxe]
  have hmap := mapAt_eq v l p
  rw [advanceOnce_read h (readWord_quiet hs.quiet _), hentry]
  by_cases hpres : entryPresent (v.entryOf l p) = true
  · rw [hpres, Bool.not_true, if_neg nofun] at hmap
    by_cases hv : violation l (v.entryOf l p) v.physBits v.nxe = 0
    · rw [visitEntry_clean hpres (hviol.trans hv)]
      exact followEntry_matches hc h hp hw hpres (hmap.trans (if_neg (by simp [TableView.faulty, hv])))
    · rw [visitEntry_reserved hpres (hviol ▸ hv)]
      exact fatal_matches h (hmap.trans (if_pos (bne_iff_ne.mpr hv))) rfl
  · rw [visitEntry_absent (Bool.eq_false_iff.mpr hpres)]
    refine ⟨rfl, ?_, WalkPos.within_bump hw (le_refl _)⟩
    rw [ahead_step v h, hmap, if_pos (by simp [hpres]), nothing_andThen]

/-! ### ADVANCE -/

/-- What ADVANCE from a position does, against the mappings ahead of it. -/
def Advance.Matches (v : TableView) (T : Level → Word → Prop) (l : Level) (p : WalkPos) (s : State) (ad : Advance) :
    Prop :=
  match ad with
  | .record r l' p' s' =>
    s' = { s with walker := .active l' p' } ∧ v.ahead l p = (Enumeration.one r).andThen (v.ahead l' p')
      ∧ p'.within l' T ∧ p'.onPath l'
  | .exhausted s' => v.ahead l p = .nothing ∧ ∃ p', s' = { s with walker := .done p' }
  | .fatal f s' => v.ahead l p = .fault f ∧ ∃ l' p', s' = { s with walker := .active l' p' }
      ∧ f.info1 = entryAt (p'.tbl l') (p'.idx l').val
  | .unfinished => True

/-- ADVANCE takes the first of the mappings ahead (R204). -/
theorem advance_matches (n : Nat) (hs : s.Reads v T) (hc : v.Closed T) (hp : p.onPath l) (hw : p.within l T) :
    (advance n l p s).Matches v T l p s := by
  induction n generalizing l p with
  | zero => trivial
  | succ n ih =>
    have h1 := advanceOnce_matches hs hc hp hw
    have hpath : ∀ l' p', (advanceOnce l p s).next? = some (l', p') → p'.onPath l' := fun _ _ e => advanceOnce_onPath e hp
    unfold advance
    split <;> rename_i e <;> rw [e] at h1 hpath
    · obtain ⟨rfl, hahead, hw'⟩ := h1
      have h2 := ih (hpath _ _ rfl) hw'
      unfold Advance.Matches at *
      rw [hahead]
      exact h2
    · obtain ⟨hs', hahead, hw'⟩ := h1
      exact ⟨hs', hahead, hw', hpath _ _ rfl⟩
    · obtain ⟨hs', hahead⟩ := h1
      exact ⟨hahead, _, hs'⟩
    · obtain ⟨hs', hahead, hf⟩ := h1
      exact ⟨hahead, l, p, hs', hf⟩

end

end Sys2Proof.Machine
end

section
/-! WALK_MARK (43_page_walker.md R214, R215; O31). `Marked` says what stands after a list of frame occurrences has been
visited; a visit adds one occurrence, a record its frames, and the walk the records ahead. -/

namespace Sys2Proof.Machine

/-! ### A visit -/

/-- What the visits of the frame occurrences `F` have made of the state `s0` and of the counts. -/
structure Marked (s0 : State) (F : List Nat) (t : Tally) (s : State) : Prop where
  frame : s = { s0 with mem := s.mem, walker := s.walker }
  wf : s.mem.wf = true
  bit : ∀ f, f < 8 * s0.bitmap.bytes.toNat →
    (s.frameBit f = true ↔ s0.frameBit f = true ∨ (f < s0.bitmap.frameCount.toNat ∧ f ∈ F))
  others : ∀ a, (∀ f, f < s0.bitmap.frameCount.toNat → f ∈ F → a ≠ s0.frameByteAddr f) →
    s.mem.read a = s0.mem.read a
  hits : t.hits = ((List.range s0.bitmap.frameCount.toNat).filter
    (fun f => !s0.frameBit f && decide (f ∈ F))).length
  total : t.total = F.length
  outOfRange : t.outOfRange = (F.filter (fun f => decide (s0.bitmap.frameCount.toNat ≤ f))).length

/-- One more element of a duplicate-free list passes the filter. -/
theorem length_filter_add_one {l : List Nat} {P Q : Nat → Bool} {g : Nat} (hl : l.Nodup) (hg : g ∈ l) (hP : P g = false)
    (hQ : Q g = true) (hPQ : ∀ x, x ≠ g → Q x = P x) : (l.filter Q).length = (l.filter P).length + 1 := by
  induction l with
  | nil => cases hg
  | cons x l ih =>
    obtain ⟨hx, hl⟩ := List.nodup_cons.mp hl
    by_cases hxg : x = g
    · subst hxg
      have hrest : l.filter Q = l.filter P :=
        List.filter_congr fun y hy => hPQ y fun e => hx (e ▸ hy)
      rw [List.filter_cons_of_pos hQ, List.filter_cons_of_neg (by simp [hP]), hrest, List.length_cons]
    · have ih := ih hl ((List.mem_cons.mp hg).resolve_left fun e => hxg e.symm)
      rw [List.filter_cons, List.filter_cons, hPQ x hxg]
      split
      · rw [List.length_cons, List.length_cons, ih]
      · exact ih

section
variable {s0 s : State} {F : List Nat} {t : Tally} {f : Nat}

theorem Marked.frameByteAddr_eq (h : Marked s0 F t s) (f : Nat) : s.frameByteAddr f = s0.frameByteAddr f := by
  rw [h.frame]
  rfl

theorem Marked.frameCount_eq (h : Marked s0 F t s) : s.bitmap.frameCount = s0.bitmap.frameCount := by
  rw [h.frame]

theorem Marked.quiet (h : Marked s0 F t s) (hq : s0.quiet) : s.quiet := by
  rw [h.frame]
  exact hq

theorem Marked.update (h : Marked s0 F t s) (m : Memory) (w : Walker) :
    ({ s with mem := m, walker := w } : State) = { s0 with mem := m, walker := w } := by
  rw [h.frame]

/-- The number of records is no part of what the visits do. -/
theorem Marked.countRecord (h : Marked s0 F t s) (n : Nat) : Marked s0 F { t with records := n } s := { h with }

theorem Marked.setWalker (h : Marked s0 F t s) (w : Walker) : Marked s0 F t { s with walker := w } :=
  { h with frame := h.update s.mem w }

theorem Marked.appendNone (h : Marked s0 F t s) : Marked s0 (F ++ []) t s := by
  rwa [List.append_nil]

/-- A visit that finds nothing to set (R215): the frame is not tracked, or its bit is 1. -/
theorem Marked.visitNothing (h : Marked s0 F t s) (hf : s0.bitmap.frameCount.toNat ≤ f ∨ s.frameBit f = true)
    (hcov : s0.bitmap.frameCount.toNat ≤ 8 * s0.bitmap.bytes.toNat) {out : Nat}
    (hout : out = (if s0.bitmap.frameCount.toNat ≤ f then t.outOfRange + 1 else t.outOfRange)) :
    Marked s0 (F ++ [f]) { t.seen with outOfRange := out } s := by
  have hmem : ∀ g, g < s0.bitmap.frameCount.toNat → s0.frameBit g = false → (g ∈ F ++ [f] ↔ g ∈ F) := by
    intro g hg h0
    rw [List.mem_append, List.mem_singleton]
    refine or_iff_left_of_imp ?_
    rintro rfl
    have hset := (h.bit g (by omega)).mp (hf.resolve_left (by omega))
    rw [h0] at hset
    exact (hset.resolve_left nofun).2
  refine { h with bit := fun g hg => ?_, others := fun a ha => ?_, hits := ?_, total := ?_, outOfRange := ?_ }
  · rw [h.bit g hg]
    cases h0 : s0.frameBit g with
    | true => simp
    | false => exact or_congr_right (and_congr_right fun hlt => (hmem g hlt h0).symm)
  · exact h.others a fun g hg hgF => ha g hg (List.mem_append_left _ hgF)
  · show t.hits = _
    rw [h.hits]
    refine congrArg List.length (List.filter_congr fun g hg => ?_)
    cases h0 : s0.frameBit g with
    | true => rfl
    | false => rw [decide_eq_decide.mpr (hmem g (List.mem_range.mp hg) h0)]
  · show t.total + 1 = _
    rw [h.total, List.length_append, List.length_singleton]
  · show out = _
    rw [hout, h.outOfRange, List.filter_append, List.length_append, List.filter_singleton]
    split
    next hle => rw [decide_eq_true hle]; rfl
    next hlt => rw [decide_eq_false hlt]; rfl

theorem frameBit_write (s : State) (hwf : s.mem.wf = true) {f g : Nat} (hf : f / 8 < 2 ^ 64) (hg : g / 8 < 2 ^ 64) :
    ({ s with mem := s.mem.write (s.frameByteAddr f) (setBit (s.mem.read (s.frameByteAddr f)) (f % 8)) } : State).frameBit g
      = (s.frameBit g || decide (g = f)) := by
  show ((s.mem.write _ _).read (s.frameByteAddr g)).getLsbD (g % 8) = _
  rw [Memory.read_write hwf]
  by_cases he : s.frameByteAddr g = s.frameByteAddr f
  · have hbyte : g / 8 = f / 8 := bitmapAddr_inj hg hf he
    rw [if_pos he, getLsbD_setBit _ (by omega), ← he, decide_eq_decide.mpr (show g % 8 = f % 8 ↔ g = f by omega)]
    rfl
  · rw [if_neg he, decide_eq_false (fun e => he (by rw [e])), Bool.or_false]
    rfl

/-- A visit that sets the bit of a tracked frame (R215). -/
theorem Marked.visitSet (h : Marked s0 F t s) (hf : f < s0.bitmap.frameCount.toNat) (hbit : s.frameBit f = false)
    (hcov : s0.bitmap.frameCount.toNat ≤ 8 * s0.bitmap.bytes.toNat) :
    Marked s0 (F ++ [f]) { t.seen with hits := t.hits + 1 }
      { s with mem := s.mem.write (s.frameByteAddr f) (setBit (s.mem.read (s.frameByteAddr f)) (f % 8)) } := by
  have hbytes := s0.bitmap.bytes.isLt
  have hclear : s0.frameBit f = false ∧ f ∉ F := by
    have hnot := mt (h.bit f (by omega)).mpr (by rw [hbit]; nofun)
    rw [not_or] at hnot
    exact ⟨Bool.eq_false_iff.mpr hnot.1, fun hF => hnot.2 ⟨hf, hF⟩⟩
  refine ⟨h.update _ s.walker, Memory.write_wf h.wf _ _, fun g hg => ?_, fun a ha => ?_, ?_, ?_, ?_⟩
  · rw [frameBit_write s h.wf (by omega) (by omega), Bool.or_eq_true, h.bit g hg, decide_eq_true_eq, List.mem_append,
      List.mem_singleton]
    constructor
    · rintro ((h0 | ⟨hlt, hF⟩) | rfl)
      · exact .inl h0
      · exact .inr ⟨hlt, .inl hF⟩
      · exact .inr ⟨hf, .inr rfl⟩
    · rintro (h0 | ⟨hlt, hF | rfl⟩)
      · exact .inl (.inl h0)
      · exact .inl (.inr ⟨hlt, hF⟩)
      · exact .inr rfl
  · have hne : a ≠ s.frameByteAddr f := by
      rw [h.frameByteAddr_eq]
      exact ha f hf (List.mem_append_right _ (List.mem_singleton.mpr rfl))
    exact (Memory.read_write_of_ne h.wf _ hne).trans
      (h.others a fun g hg hgF => ha g hg (List.mem_append_left _ hgF))
  · show t.hits + 1 = _
    rw [h.hits]
    refine (length_filter_add_one List.nodup_range (List.mem_range.mpr hf) ?_ ?_ fun g hg => ?_).symm
    · simp [hclear.2]
    · simp [hclear.1]
    · simp [hg]
  · show t.total + 1 = _
    rw [h.total, List.length_append, List.length_singleton]
  · show t.outOfRange = _
    rw [h.outOfRange, List.filter_append, List.filter_singleton, decide_eq_false (by omega), cond_false, List.append_nil]

theorem markFrame_marked (h : Marked s0 F t s) (hq : s0.quiet)
    (hcov : s0.bitmap.frameCount.toNat ≤ 8 * s0.bitmap.bytes.toNat) (f : Nat) :
    ∃ t' s', markFrame f t s = .ok t' s' ∧ Marked s0 (F ++ [f]) t' s' ∧ s'.walker = s.walker
      ∧ t'.records = t.records := by
  have hqs := h.quiet hq
  unfold markFrame
  rw [h.frameCount_eq]
  split
  next hle => exact ⟨_, _, rfl, h.visitNothing (.inl hle) hcov (if_pos hle).symm, rfl, rfl⟩
  next hlt =>
    rw [readByte_quiet hqs]
    dsimp only
    split
    next hset => exact ⟨_, _, rfl, h.visitNothing (.inr hset) hcov (if_neg hlt).symm, rfl, rfl⟩
    next hclear =>
      rw [writeByte_quiet hqs]
      exact ⟨_, _, rfl, h.visitSet (by omega) (Bool.eq_false_iff.mpr hclear) hcov, rfl, rfl⟩

end

theorem visitFrames_marked {s0 s : State} {F : List Nat} {t : Tally} (h : Marked s0 F t s) (hq : s0.quiet)
    (hcov : s0.bitmap.frameCount.toNat ≤ 8 * s0.bitmap.bytes.toNat) (n f : Nat) :
    ∃ t' s', visitFrames markFrame n f t s = .ok t' s' ∧ Marked s0 (F ++ List.range' f n) t' s' ∧ s'.walker = s.walker
      ∧ t'.records = t.records := by
  induction n generalizing F f t s with
  | zero =>
    rw [List.range'_zero, List.append_nil]
    exact ⟨t, s, rfl, h, rfl, rfl⟩
  | succ n ih =>
    obtain ⟨t1, s1, e1, h1, hw1, hr1⟩ := markFrame_marked h hq hcov f
    obtain ⟨t2, s2, e2, h2, hw2, hr2⟩ := ih h1 (f + 1)
    refine ⟨t2, s2, ?_, ?_, hw2.trans hw1, hr2.trans hr1⟩
    · rw [visitFrames, e1]
      exact e2
    · rw [List.range'_succ, List.append_cons]
      exact h2

/-! ### The walk -/

theorem readWord_congr {m m' : Memory} {a : Word}
    (h : ∀ j, j < 8 → m.read (a + BitVec.ofNat 64 j) = m'.read (a + BitVec.ofNat 64 j)) :
    m.readWord a = m'.readWord a := by
  have h0 := h 0 (by omega)
  rw [BitVec.add_zero] at h0
  have h1 : m.read (a + 1) = m'.read (a + 1) := h 1 (by omega)
  have h2 : m.read (a + 2) = m'.read (a + 2) := h 2 (by omega)
  have h3 : m.read (a + 3) = m'.read (a + 3) := h 3 (by omega)
  have h4 : m.read (a + 4) = m'.read (a + 4) := h 4 (by omega)
  have h5 : m.read (a + 5) = m'.read (a + 5) := h 5 (by omega)
  have h6 : m.read (a + 6) = m'.read (a + 6) := h 6 (by omega)
  have h7 : m.read (a + 7) = m'.read (a + 7) := h 7 (by omega)
  rw [Memory.readWord, h0, h1, h2, h3, h4, h5, h6, h7]
  rfl

/-- The bytes of an entry are bytes of its table. -/
theorem phys_entryAt_add (s : State) (a : Word) (i j : Nat) :
    s.phys (entryAt a i) + BitVec.ofNat 64 j = s.phys (a + BitVec.ofNat 64 (8 * i + j)) := by
  unfold State.phys entryAt
  rw [BitVec.ofNat_add]
  ac_rfl

/-- No byte of a table in `T` is a byte of the bitmap. -/
def State.Apart (s : State) (T : Level → Word → Prop) : Prop :=
  ∀ l a, T l a → ∀ off, off < 4096 → ∀ k, k < s.bitmap.bytes.toNat → s.phys (a + BitVec.ofNat 64 off) ≠ s.bitmapAddr k

/-- The marks leave the tables as they were, so the walk goes on over the hierarchy it started on. -/
theorem Marked.reads {s0 s : State} {F : List Nat} {t : Tally} {T : Level → Word → Prop} (h : Marked s0 F t s)
    (hq : s0.quiet) (hcov : s0.bitmap.bytes.toNat = (s0.bitmap.frameCount.toNat + 7) / 8) (hT : s0.Apart T) :
    s.Reads s0.tables T := by
  refine ⟨h.quiet hq, ?_, ?_, fun l a i ha hi => ?_⟩
  · rw [h.frame]
    rfl
  · rw [h.frame]
    rfl
  · have hphys : s.phys (entryAt a i) = s0.phys (entryAt a i) := by
      rw [h.frame]
      rfl
    show s.mem.readWord (s.phys (entryAt a i)) = s0.mem.readWord (s0.phys (entryAt a i))
    rw [hphys]
    refine readWord_congr fun j hj => h.others _ fun f hf _ => ?_
    rw [phys_entryAt_add]
    exact hT l a ha (8 * i + j) (by omega) (f / 8) (by omega)

theorem mappedFrames_cons (r : WalkRecord) (rs : List WalkRecord) :
    mappedFrames (r :: rs) = r.frames ++ mappedFrames rs := List.flatMap_cons

/-- How WALK_MARK's walk ends: every mapping ahead marked and counted, at the end of the hierarchy or at the fault that
stops it. -/
structure WalkMarked (s0 : State) (F : List Nat) (t : Tally) (ahead : Enumeration) (run : WalkRun) (t' : Tally)
    (s' : State) : Prop where
  marked : Marked s0 (F ++ mappedFrames ahead.records) t' s'
  records : t'.records = t.records + ahead.records.length
  complete : ahead.stop = none → run = .done t' s' ∧ ∃ p, s'.walker = .done p
  stopped : ∀ f, ahead.stop = some f → run = .fatal f s'
    ∧ ∃ l p, s'.walker = .active l p ∧ f.info1 = entryAt (p.tbl l) (p.idx l).val

/-- WALK_MARK's walk from a position marks the mappings ahead of it (R215). -/
theorem walkAll_marked {s0 s : State} {F : List Nat} {t : Tally} {T : Level → Word → Prop} {l : Level} {p : WalkPos}
    {n : Nat} (h : Marked s0 F t s) (hq : s0.quiet)
    (hcov : s0.bitmap.bytes.toNat = (s0.bitmap.frameCount.toNat + 7) / 8) (hT : s0.Apart T) (hc : s0.tables.Closed T)
    (hp : p.onPath l) (hw : p.within l T) (hn : walkCost l p < n) :
    ∃ t' s', WalkMarked s0 F t (s0.tables.ahead l p) (walkAll markFrame n l p t s) t' s' := by
  induction n generalizing l p F t s with
  | zero => omega
  | succ n ih =>
    have hmatch := advance_matches walkFuel (h.reads hq hcov hT) hc hp hw
    have hfin := advance_finishes s (walkCost_lt_fuel l p)
    rw [walkAll]
    cases e : advance walkFuel l p s with
    | unfinished => exact absurd e hfin
    | exhausted s1 =>
      rw [e] at hmatch
      obtain ⟨hahead, q, rfl⟩ := hmatch
      rw [hahead]
      exact ⟨t, { s with walker := .done q }, (h.setWalker _).appendNone, rfl, fun _ => ⟨rfl, q, rfl⟩, nofun⟩
    | fatal f s1 =>
      rw [e] at hmatch
      obtain ⟨hahead, l', p', rfl, hinfo⟩ := hmatch
      rw [hahead]
      refine ⟨t, { s with walker := .active l' p' }, (h.setWalker _).appendNone, rfl, nofun, fun g hg => ?_⟩
      cases hg
      exact ⟨rfl, l', p', rfl, hinfo⟩
    | record r l' p' s1 =>
      rw [e] at hmatch
      obtain ⟨rfl, hahead, hw', hp'⟩ := hmatch
      have hcost := advance_cost e
      obtain ⟨t2, s2, e2, h2, _, hr2⟩ := visitFrames_marked ((h.countRecord (t.records + 1)).setWalker (.active l' p'))
        hq (by omega) (pageFrames r.size) r.firstFrame
      obtain ⟨t3, s3, h3⟩ := ih h2 hp' hw' (by omega)
      refine ⟨t3, s3, ?_⟩
      dsimp only
      rw [e2, hahead]
      refine ⟨?_, ?_, h3.complete, h3.stopped⟩
      · have hm := h3.marked
        rw [List.append_assoc] at hm
        exact hm
      · show t3.records = t.records + ((s0.tables.ahead l' p').records.length + 1)
        rw [h3.records, hr2]
        show t.records + 1 + _ = _
        omega

/-- Nothing is marked before the walk. -/
theorem marked_atRoot {s : State} (hwf : s.mem.wf = true) : Marked s [] .zero s.atRoot :=
  ⟨rfl, hwf, fun _ _ => by simp only [List.not_mem_nil, and_false, or_false]; rfl, fun _ _ => rfl, by simp [Tally.zero],
    rfl, rfl⟩

/-- WALK_MARK's walk of a CR3 value marks its mappings. -/
theorem walkAll_marks_mappings {s : State} (hs : s.Inv) (hq : s.quiet) (ha : s.tablesApart s.args.v0) :
    ∃ t' s', WalkMarked s [] .zero (s.tables.mappings s.args.v0)
      (walkAll markFrame walkFuel .l4 (.init s.args.v0) .zero s.atRoot) t' s' := by
  obtain ⟨T, ⟨hroot, hclosed⟩, hapart⟩ := ha
  have hpath : (WalkPos.init s.args.v0).onPath .l4 := fun l' hl => by cases l' <;> simp [levelNumber] at hl
  have hin : (WalkPos.init s.args.v0).within .l4 T := fun l' hl => by
    cases l' <;> simp [levelNumber] at hl
    exact hroot
  exact walkAll_marked (marked_atRoot hs.memCanonical) hq hs.bitmapCovers hapart hclosed hpath hin
    (walkCost_lt_fuel .l4 _)

/-- The state of a walk that marked its mappings, whole. -/
theorem Marked.state_eq {s0 s : State} {F : List Nat} {t : Tally} {w : Walker} (h : Marked s0 F t s)
    (hw : s.walker = w) : s = { s0 with walker := w, mem := s.mem } := by
  conv_lhs => rw [h.frame, hw]

/-- Settles O31, by the walk over the mappings ahead of the root. -/
theorem walkMarkMarks : Obligations.WalkMarkMarks := by
  refine ⟨by decide, fun s hh hl => ?_⟩
  have hg : gate .walkMark s = none := gate_none hh ((permits_use_iff s (.inl rfl)).mpr hl)
  rw [exec_walkMark hg]
  refine ⟨fun hp => ?_, fun hp hr => ?_, fun hp hr hs hq ha rs hrs => ?_⟩
  · exact walkWhole_badConfig _ (Bool.eq_false_iff.mpr (mt (physBitsValid_iff s).mp hp))
  · have hc := mt (and_physMask_eq_zero_iff hp.1 s.args.v0).mp (not_not.mpr hr)
    exact walkWhole_reserved _ ((physBitsValid_iff s).mpr hp) hc
  · obtain ⟨t', s', hwalk⟩ := walkAll_marks_mappings hs hq ha
    rw [walkWhole_open _ (walkOpen_of hp hr)]
    have hm := hwalk.marked
    rw [List.nil_append, ← hrs] at hm
    have hrec := hwalk.records
    rw [← hrs] at hrec
    cases hstop : (s.tables.mappings s.args.v0).stop with
    | none =>
      obtain ⟨hrun, p, hwalker⟩ := hwalk.complete hstop
      rw [hrun]
      refine ⟨s'.mem, _, rfl, fun _ => ⟨p, ?_⟩, nofun, hm.bit, hm.others⟩
      conv_lhs => rw [hm.state_eq hwalker, hm.hits, hm.total, hm.outOfRange, hrec]
      rw [show Tally.zero.records + rs.length = rs.length from Nat.zero_add _]
      rfl
    | some f =>
      obtain ⟨hrun, l, p, hwalker, hinfo⟩ := hwalk.stopped f hstop
      rw [hrun]
      refine ⟨s'.mem, _, rfl, nofun, fun g hgf => ?_, hm.bit, hm.others⟩
      cases hgf
      refine ⟨l, p, ?_, hinfo⟩
      conv_lhs => rw [hm.state_eq hwalker]
      rfl

end Sys2Proof.Machine
end

section
/-! The decoder against the table of command words (30_encoding.md R90-R97; O1, O2): the operation code and the level
code read back from a decoded command are those of the word, so a word that decodes is the encoder's word. -/

namespace Sys2Proof.Machine

/-! ### Words and levels -/

@[simp] theorem joinWord_splitWord (w : BitVec 32) : joinWord (splitWord w) = w := by
  have hfields : w.extractLsb' 10 22 ++ w.extractLsb' 8 2 ++ w.extractLsb' 0 8 = w.extractLsb' 0 32 := by
    rw [BitVec.extractLsb'_append_extractLsb'_eq_extractLsb' (start₁ := 8) (len₁ := 2) (start₂ := 10) (len₂ := 22) rfl,
      BitVec.extractLsb'_append_extractLsb'_eq_extractLsb' (start₁ := 0) (len₁ := 8) (start₂ := 8) (len₂ := 24) rfl]
  exact hfields.trans BitVec.extractLsb'_eq_self

@[simp] theorem codeOfLevel_levelOfCode (c : BitVec 2) : codeOfLevel (levelOfCode c) = c := by
  revert c; decide

/-! ### What the decoder reads -/

theorem decodeFields_eq_ok_iff (c : CommandWord) (i : Instr) : decodeFields c = .ok i ↔
    c.mbz = 0 ∧ ((isCodecOp c.op = true ∧ codecInstr c.op (levelOfCode c.lvl) = some i)
      ∨ (isCodecOp c.op = false ∧ plainInstr c.op = some i ∧ c.lvl = 0)) := by
  unfold decodeFields
  by_cases hmbz : c.mbz = 0#22
  · cases hcodec : isCodecOp c.op with
    | true => cases hi : codecInstr c.op (levelOfCode c.lvl) <;> simp [hmbz]
    | false => cases hi : plainInstr c.op <;> by_cases hlvl : c.lvl = 0#2 <;> simp [hmbz, hlvl]
  · simp [hmbz]

/-- Each operation of the codec gives its code and its level back. -/
theorem codes_of_codecInstr {op : BitVec 8} {l : Level} {i : Instr} (h : codecInstr op l = some i) :
    opOf i = op ∧ lvlOf i = codeOfLevel l := by
  unfold codecInstr at h
  split_ifs at h with hop hop hop hop hop hop
  all_goals
    subst hop
    cases l <;> cases h <;> exact ⟨rfl, rfl⟩

theorem mem_plainOps_of_plainInstr {op : BitVec 8} {i : Instr} (h : plainInstr op = some i) : op ∈ plainOps := by
  by_contra hop
  simp only [plainOps, List.mem_cons, List.not_mem_nil, or_false, not_or] at hop
  simp only [plainInstr, hop, if_false, reduceCtorEq] at h

/-- Each operation without a level gives its code back, and the level code 0. -/
theorem codes_of_plainInstr {op : BitVec 8} {i : Instr} (h : plainInstr op = some i) : opOf i = op ∧ lvlOf i = 0 := by
  have hall : ∀ p ∈ plainOps, ∀ j ∈ plainInstr p, opOf j = p ∧ lvlOf j = 0 := by decide
  exact hall op (mem_plainOps_of_plainInstr h) i h

theorem eq_fieldsOf_of_decodeFields {c : CommandWord} {i : Instr} (h : decodeFields c = .ok i) : c = fieldsOf i := by
  obtain ⟨op, lvl, mbz⟩ := c
  obtain ⟨rfl, ⟨-, hi⟩ | ⟨-, hi, hlvl0⟩⟩ := (decodeFields_eq_ok_iff _ i).mp h
  · obtain ⟨hop, hlvl⟩ := codes_of_codecInstr hi
    rw [fieldsOf, hop, hlvl, codeOfLevel_levelOfCode]
  · obtain ⟨hop, hlvl⟩ := codes_of_plainInstr hi
    rw [fieldsOf, hop, hlvl, ← hlvl0]

/-- The encoder's word of every command decodes to it and is legal, by the lemma of each command. -/
theorem decodeEncode_statement : ∀ i, Laws.DecodeEncode.Statement i
  | .pteNewL1 => Laws.DecodeEncode.pteNewL1
  | .pteNewL2 => Laws.DecodeEncode.pteNewL2
  | .pteNewL3 => Laws.DecodeEncode.pteNewL3
  | .pteNewL4 => Laws.DecodeEncode.pteNewL4
  | .pteFlagsL1 => Laws.DecodeEncode.pteFlagsL1
  | .pteFlagsL2 => Laws.DecodeEncode.pteFlagsL2
  | .pteFlagsL3 => Laws.DecodeEncode.pteFlagsL3
  | .pteFlagsL4 => Laws.DecodeEncode.pteFlagsL4
  | .pteFrameL1 => Laws.DecodeEncode.pteFrameL1
  | .pteFrameL2 => Laws.DecodeEncode.pteFrameL2
  | .pteFrameL3 => Laws.DecodeEncode.pteFrameL3
  | .pteFrameL4 => Laws.DecodeEncode.pteFrameL4
  | .ptePresentL1 => Laws.DecodeEncode.ptePresentL1
  | .ptePresentL2 => Laws.DecodeEncode.ptePresentL2
  | .ptePresentL3 => Laws.DecodeEncode.ptePresentL3
  | .ptePresentL4 => Laws.DecodeEncode.ptePresentL4
  | .pteLargeL2 => Laws.DecodeEncode.pteLargeL2
  | .pteLargeL3 => Laws.DecodeEncode.pteLargeL3
  | .pteRsvdL1 => Laws.DecodeEncode.pteRsvdL1
  | .pteRsvdL2 => Laws.DecodeEncode.pteRsvdL2
  | .pteRsvdL3 => Laws.DecodeEncode.pteRsvdL3
  | .pteRsvdL4 => Laws.DecodeEncode.pteRsvdL4
  | .bitx => Laws.DecodeEncode.bitx
  | .biti => Laws.DecodeEncode.biti
  | .arenaFind => Laws.DecodeEncode.arenaFind
  | .arenaAlloc => Laws.DecodeEncode.arenaAlloc
  | .arenaFree => Laws.DecodeEncode.arenaFree
  | .bitmapBuild => Laws.DecodeEncode.bitmapBuild
  | .walkStart => Laws.DecodeEncode.walkStart
  | .walkNext => Laws.DecodeEncode.walkNext
  | .walkMark => Laws.DecodeEncode.walkMark
  | .walkCheck => Laws.DecodeEncode.walkCheck
  | .frameAlloc => Laws.DecodeEncode.frameAlloc
  | .frameFree => Laws.DecodeEncode.frameFree
  | .frameTest => Laws.DecodeEncode.frameTest
  | .freeCount => Laws.DecodeEncode.freeCount
  | .bitmapFreeze => Laws.DecodeEncode.bitmapFreeze
  | .csrRead => Laws.DecodeEncode.csrRead
  | .csrWrite => Laws.DecodeEncode.csrWrite
  | .reset => Laws.DecodeEncode.reset

theorem decode_encode (i : Instr) : decode (encode i) = .ok i :=
  (decodeEncode_statement i).1

theorem decode_eq_ok_iff (w : BitVec 32) (i : Instr) : decode w = .ok i ↔ w = encode i := by
  constructor
  · intro h
    rw [encode, ← eq_fieldsOf_of_decodeFields h, joinWord_splitWord]
  · rintro rfl
    exact decode_encode i

/-! ### The table of command words -/

theorem encode_of_mem_commandWords : ∀ p ∈ commandWords, p.2 = encode p.1 := by decide

theorem encode_mem_commandWords (i : Instr) : (i, encode i) ∈ commandWords := by
  cases i <;> decide

theorem mem_commandWords_iff (i : Instr) (w : BitVec 32) : (i, w) ∈ commandWords ↔ w = encode i := by
  constructor
  · exact encode_of_mem_commandWords (i, w)
  · rintro rfl
    exact encode_mem_commandWords i

/-- Settles O2: a word decodes to a command, and stands in the table with it, exactly when the encoder writes it. -/
theorem decodeIsTheTable : Obligations.DecodeIsTheTable :=
  ⟨decode_encode, encode_mem_commandWords,
    fun i w => (decode_eq_ok_iff w i).trans (mem_commandWords_iff i w).symm⟩

/-- Settles O1: each word is the encoder's word of its command. -/
theorem sampleWordsDecode : Obligations.SampleWordsDecode :=
  ⟨decode_encode .pteNewL4, decode_encode .pteFlagsL2, decode_encode .pteFrameL1, decode_encode .ptePresentL3,
    decode_encode .pteLargeL2, decode_encode .pteRsvdL4, decode_encode .biti, decode_encode .arenaFree,
    decode_encode .bitmapBuild, decode_encode .walkCheck, decode_encode .frameFree, decode_encode .csrWrite,
    decode_encode .reset⟩

end Sys2Proof.Machine
end

section
/-! Illegal command words (30_encoding.md R96; O3): the decoder accepts a word exactly when its fields pass the four
checks, each check is the denial of one condition of R96, and the step on an illegal word is a rejection. -/

namespace Sys2Proof.Machine

/-! ### The operation codes by number -/

theorem mem_codecOps_iff (op : BitVec 8) : op ∈ codecOps ↔ 1 ≤ op.toNat ∧ op.toNat ≤ 6 := by
  simp only [codecOps, List.mem_cons, List.not_mem_nil, or_false]
  bv_omega

theorem isCodecOp_iff_mem (op : BitVec 8) : isCodecOp op = true ↔ op ∈ codecOps := by
  simp [isCodecOp, mem_codecOps_iff]

theorem toNat_mem_assignedOps_iff (op : BitVec 8) : op.toNat ∈ assignedOps ↔ op ∈ codecOps ∨ op ∈ plainOps := by
  have htable : assignedOps = (codecOps ++ plainOps).map BitVec.toNat := rfl
  have hinj : Function.Injective (BitVec.toNat (w := 8)) := fun _ _ => BitVec.eq_of_toNat_eq
  rw [htable, List.mem_map_of_injective hinj, List.mem_append]

/-! ### Legal words -/

theorem wellFormed_iff (c : CommandWord) : c.wellFormed = true ↔
    c.mbz = 0 ∧ (c.op ∈ codecOps ∨ c.op ∈ plainOps) ∧ (c.op ∈ codecOps ∨ c.lvl = 0)
      ∧ (c.op ≠ 5 ∨ c.lvl = 1 ∨ c.lvl = 2) := by
  simp [CommandWord.wellFormed, CommandWord.mbzClear, CommandWord.opAssigned, CommandWord.levelAllowed,
    CommandWord.largeLevelOk, and_assoc, or_assoc]

theorem exists_plainInstr {op : BitVec 8} (h : op ∈ plainOps) : ∃ i, plainInstr op = some i := by
  have hall : ∀ p ∈ plainOps, (plainInstr p).isSome := by decide
  exact Option.isSome_iff_exists.mp (hall op h)

/-- PTE_LARGE is the one codec operation that two levels lack. -/
theorem exists_codecInstr {op : BitVec 8} {lvl : BitVec 2} (h : op ∈ codecOps) (hlarge : op ≠ 5 ∨ lvl = 1 ∨ lvl = 2) :
    ∃ i, codecInstr op (levelOfCode lvl) = some i := by
  have hall : ∀ p ∈ codecOps, ∀ c : BitVec 2, p ≠ 5 ∨ c = 1 ∨ c = 2 → (codecInstr p (levelOfCode c)).isSome := by
    decide
  exact Option.isSome_iff_exists.mp (hall op h lvl hlarge)

theorem exists_decodeFields_of_wellFormed {c : CommandWord} (h : c.wellFormed = true) :
    ∃ i, decodeFields c = .ok i := by
  obtain ⟨hmbz, hop, hlvl, hlarge⟩ := (wellFormed_iff c).mp h
  by_cases hcodec : c.op ∈ codecOps
  · obtain ⟨i, hi⟩ := exists_codecInstr hcodec hlarge
    exact ⟨i, (decodeFields_eq_ok_iff c i).mpr ⟨hmbz, .inl ⟨(isCodecOp_iff_mem c.op).mpr hcodec, hi⟩⟩⟩
  · obtain ⟨i, hi⟩ := exists_plainInstr (hop.resolve_left hcodec)
    have hplain : isCodecOp c.op = false := Bool.eq_false_iff.mpr (mt (isCodecOp_iff_mem c.op).mp hcodec)
    exact ⟨i, (decodeFields_eq_ok_iff c i).mpr ⟨hmbz, .inr ⟨hplain, hi, hlvl.resolve_left hcodec⟩⟩⟩

/-- The decoder's order of the checks of R96 does not matter to what it accepts. -/
theorem exists_decode_ok_iff (w : BitVec 32) : (∃ i, decode w = .ok i) ↔ (splitWord w).wellFormed = true := by
  constructor
  · rintro ⟨i, hi⟩
    rw [(decode_eq_ok_iff w i).mp hi]
    exact (decodeEncode_statement i).2
  · exact exists_decodeFields_of_wellFormed

/-! ### Illegal words -/

theorem exists_decode_error_iff (w : BitVec 32) : (∃ e, decode w = .error e) ↔ ¬ ∃ i, decode w = .ok i := by
  cases decode w <;> simp

/-- The checks of a word denied, in the numbers of R96: an assigned code above 6 is one that takes no level. -/
theorem not_wellFormed_iff (c : CommandWord) : ¬ c.wellFormed = true ↔
    c.mbz ≠ 0 ∨ c.op.toNat ∉ assignedOps ∨ (6 < c.op.toNat ∧ c.lvl ≠ 0)
      ∨ (c.op.toNat = 5 ∧ (c.lvl = 0 ∨ c.lvl = 3)) := by
  have hfive : c.op = 5 ↔ c.op.toNat = 5 := by rw [← BitVec.toNat_inj]; rfl
  have hlevel : ∀ l : BitVec 2, l = 0 ∨ l = 3 ↔ ¬ (l = 1 ∨ l = 2) := by decide
  have hzero : c.op.toNat ∈ assignedOps → c.op.toNat ≠ 0 := fun h h0 => absurd (h0 ▸ h) (by decide)
  have hcodec : c.op.toNat ∈ assignedOps → (c.op ∈ codecOps ↔ ¬ 6 < c.op.toNat) := fun h => by
    have := hzero h
    rw [mem_codecOps_iff]
    omega
  rw [wellFormed_iff, ← toNat_mem_assignedOps_iff, hlevel, ← hfive]
  by_cases hop : c.op.toNat ∈ assignedOps
  · rw [hcodec hop]
    grind
  · exact iff_of_true (fun h => hop h.2.1) (.inr (.inl hop))

/-- Settles O3: the conditions are the checks of the decoder denied, and the step on an illegal word rejects it. -/
theorem illegalWords : Obligations.IllegalWords :=
  ⟨fun w => (exists_decode_error_iff w).trans
      ((not_congr (exists_decode_ok_iff w)).trans (not_wellFormed_iff (splitWord w))),
    fun _ _ _ _ hin hd => step_of_illegal hin hd⟩

end Sys2Proof.Machine
end

section
/-! The page-table entry codec (40_pte_codec.md R120-R141; O8-O13): each mask bit by bit, each function of an entry by
the masks, each command past its gate, and the statements assembled from them. -/

namespace Sys2Proof.Machine

/-! ### The masks, bit by bit -/

theorem getLsbD_tableFlagMask {n : Nat} (hn : n < 64) : tableFlagMask.getLsbD n = decide (n ≤ 5) := by
  revert n
  decide

theorem getLsbD_largeFlagMask {n : Nat} (hn : n < 64) : largeFlagMask.getLsbD n = decide (n = 6 ∨ n = 7) := by
  revert n
  decide

theorem getLsbD_leafFlagMask {n : Nat} (hn : n < 64) :
    leafFlagMask.getLsbD n = decide (n ≤ 5 ∨ n = 6 ∨ n = 8 ∨ n = 63) := by
  revert n
  decide

/-- FMASK is the set of flag bits of R121 that the level has (R122). -/
theorem getLsbD_flagMask (l : Level) (w : Word) {n : Nat} (hn : n < 64) :
    (flagMask l w).getLsbD n = true ↔ isFlagBit l w n := by
  have hlarge : (tableFlagMask ||| if entryLarge w then largeFlagMask else 0).getLsbD n = true
      ↔ n ≤ 5 ∨ (w.getLsbD 7 = true ∧ (n = 6 ∨ n = 7)) := by
    unfold entryLarge
    cases w.getLsbD 7 <;> simp [getLsbD_tableFlagMask hn, getLsbD_largeFlagMask hn]
  cases l with
  | l1 => simp [flagMask, isFlagBit, getLsbD_leafFlagMask hn]
  | l2 => simpa [flagMask, isFlagBit] using hlarge
  | l3 => simpa [flagMask, isFlagBit] using hlarge
  | l4 => simp [flagMask, isFlagBit, getLsbD_tableFlagMask hn]

/-- ADDR_MASK and every FMASK are disjoint (R124). -/
theorem isFlagBit.not_address {l : Level} {w : Word} {n : Nat} (h : isFlagBit l w n) : ¬ (12 ≤ n ∧ n ≤ 51) := by
  unfold isFlagBit at h
  omega

/-- The flags of a word that a level has depend on its LARGE bit alone, and that only where LARGE is a flag (R122). -/
theorem isFlagBit_congr {l : Level} {w w' : Word} (h : l = .l2 ∨ l = .l3 → w.getLsbD 7 = w'.getLsbD 7) (n : Nat) :
    isFlagBit l w n ↔ isFlagBit l w' n := by
  unfold isFlagBit
  refine or_congr_right (or_congr_right (and_congr_right fun hl => ?_))
  rw [h hl]

/-- The low bits of the address field of a 1 GiB page and of a 2 MiB page, bit 7 of an L4 entry and NO_EXECUTE: what
R140 reserves by level and by NXE. -/
theorem getLsbD_reserved1G {n : Nat} (hn : n < 64) : (0x3FFFE000#64).getLsbD n = decide (13 ≤ n ∧ n ≤ 29) := by
  revert n
  decide

theorem getLsbD_reserved2M {n : Nat} (hn : n < 64) : (0x001FE000#64).getLsbD n = decide (13 ≤ n ∧ n ≤ 20) := by
  revert n
  decide

theorem getLsbD_largeBit {n : Nat} (hn : n < 64) : (0x80#64).getLsbD n = decide (n = 7) := by
  revert n
  decide

theorem getLsbD_noExecuteBit {n : Nat} (hn : n < 64) : (0x8000000000000000#64).getLsbD n = decide (n = 63) := by
  revert n
  decide

/-- RSV is the set of bits R140 reserves. -/
theorem getLsbD_reservedMask (l : Level) (e : Word) {m : Nat} (nxe : Bool) (hm : 13 ≤ m) {n : Nat} (hn : n < 64) :
    (reservedMask l e m nxe).getLsbD n = true ↔ isReservedBit l e m nxe n := by
  have hphys : (physMask m).getLsbD n = true ↔ m ≤ n ∧ n ≤ 51 := by
    rw [getLsbD_physMask m hn, decide_eq_true_iff]
    omega
  have hnx : (if nxe then 0 else (0x8000000000000000 : Word)).getLsbD n = true ↔ nxe = false ∧ n = 63 := by
    cases nxe <;> simp [getLsbD_noExecuteBit hn]
  unfold reservedMask isReservedBit entryLarge
  rw [BitVec.getLsbD_or, Bool.or_eq_true, BitVec.getLsbD_or, Bool.or_eq_true, hphys, hnx]
  cases l with
  | l1 => simp
  | l2 => cases e.getLsbD 7 <;> simp [getLsbD_reserved2M hn, or_assoc]
  | l3 => cases e.getLsbD 7 <;> simp [getLsbD_reserved1G hn, or_assoc]
  | l4 => simp [getLsbD_largeBit hn, or_assoc]

/-! ### The functions of an entry -/

theorem getLsbD_packEntry (l : Level) (a f : Word) {n : Nat} (hn : n < 64) :
    (packEntry l a f).getLsbD n = true ↔
      (12 ≤ n ∧ n ≤ 51 ∧ a.getLsbD n = true) ∨ (isFlagBit l f n ∧ f.getLsbD n = true) := by
  simp only [packEntry, BitVec.getLsbD_or, BitVec.getLsbD_and, Bool.or_eq_true, Bool.and_eq_true, getLsbD_addrMask hn,
    getLsbD_flagMask l f hn, decide_eq_true_iff]
  tauto

theorem getLsbD_entryFlags (l : Level) (e : Word) {n : Nat} (hn : n < 64) :
    (entryFlags l e).getLsbD n = true ↔ isFlagBit l e n ∧ e.getLsbD n = true := by
  unfold entryFlags
  rw [BitVec.getLsbD_and, Bool.and_eq_true, getLsbD_flagMask l e hn, and_comm]

theorem getLsbD_entryFrame (e : Word) {n : Nat} (hn : n < 64) :
    (entryFrame e).getLsbD n = true ↔ 12 ≤ n ∧ n ≤ 51 ∧ e.getLsbD n = true := by
  unfold entryFrame
  by_cases h : 12 ≤ n
  · simp [BitVec.getLsbD_extractLsb', hn, h, show n - 12 < 40 ↔ n ≤ 51 by omega,
      show 12 + (n - 12) = n by omega]
  · simp [h, show n < 12 by omega]

theorem toNat_entryFrame (e : Word) : (entryFrame e).toNat = e.toNat / 2 ^ 12 % 2 ^ 40 * 4096 := by
  have hlt : e.toNat / 2 ^ 12 % 2 ^ 40 < 2 ^ 40 := Nat.mod_lt _ (by omega)
  unfold entryFrame
  rw [BitVec.toNat_shiftLeft, BitVec.toNat_setWidth, BitVec.extractLsb'_toNat, Nat.shiftRight_eq_div_pow,
    Nat.shiftLeft_eq]
  omega

theorem getLsbD_violation (l : Level) (e : Word) {m : Nat} (nxe : Bool) (hm : 13 ≤ m) {n : Nat} (hn : n < 64) :
    (violation l e m nxe).getLsbD n = true ↔
      e.getLsbD 0 = true ∧ e.getLsbD n = true ∧ isReservedBit l e m nxe n := by
  unfold violation entryPresent
  cases e.getLsbD 0 with
  | false => simp
  | true => simp [getLsbD_reservedMask l e nxe hm hn]

/-- A bit of a word as a result is the word's binary digit. -/
theorem boolWord_getLsbD (e : Word) (k : Nat) : boolWord (e.getLsbD k) = BitVec.ofNat 64 (e.toNat / 2 ^ k % 2) := by
  rw [← Nat.toNat_testBit, BitVec.testBit_toNat]
  cases e.getLsbD k <;> rfl

theorem boolWord_bne_zero (v : Word) : boolWord (v != 0) = if v = 0 then 0 else 1 := by
  by_cases h : v = 0 <;> simp [boolWord, h]

/-! ### Packing and extracting (R124) -/

theorem entryFrame_packEntry (l : Level) (a f : Word) : entryFrame (packEntry l a f) = a &&& addrMask := by
  apply BitVec.eq_of_getLsbD_eq
  intro n hn
  rw [Bool.eq_iff_iff, getLsbD_entryFrame _ hn, getLsbD_packEntry l a f hn, BitVec.getLsbD_and, Bool.and_eq_true,
    getLsbD_addrMask hn, decide_eq_true_iff]
  have hdisjoint : isFlagBit l f n → ¬ (12 ≤ n ∧ n ≤ 51) := isFlagBit.not_address
  tauto

/-- Where LARGE is a flag, packing keeps it; so the entry has the flags that its flag word has. -/
theorem isFlagBit_packEntry (l : Level) (a f : Word) (n : Nat) : isFlagBit l (packEntry l a f) n ↔ isFlagBit l f n := by
  refine isFlagBit_congr (fun hl => ?_) n
  rw [Bool.eq_iff_iff, getLsbD_packEntry l a f (by omega)]
  constructor
  · rintro (⟨h12, -⟩ | ⟨-, hf⟩)
    · omega
    · exact hf
  · exact fun hf => .inr ⟨.inr (.inr ⟨hl, hf, .inr rfl⟩), hf⟩

theorem entryFlags_packEntry (l : Level) (a f : Word) : entryFlags l (packEntry l a f) = entryFlags l f := by
  apply BitVec.eq_of_getLsbD_eq
  intro n hn
  rw [Bool.eq_iff_iff, getLsbD_entryFlags l _ hn, getLsbD_entryFlags l f hn, isFlagBit_packEntry,
    getLsbD_packEntry l a f hn]
  have hdisjoint : isFlagBit l f n → ¬ (12 ≤ n ∧ n ≤ 51) := isFlagBit.not_address
  tauto

theorem entryFlags_eq_self {l : Level} {f : Word} (h : ∀ n, n < 64 → f.getLsbD n = true → isFlagBit l f n) :
    entryFlags l f = f := by
  apply BitVec.eq_of_getLsbD_eq
  intro n hn
  rw [Bool.eq_iff_iff, getLsbD_entryFlags l f hn]
  exact and_iff_right_of_imp (h n hn)

theorem and_addrMask_eq_self {a : Word} (h : a &&& ~~~addrMask = 0) : a &&& addrMask = a := by
  calc a &&& addrMask = (a &&& addrMask) ||| (a &&& ~~~addrMask) := by rw [h]; exact BitVec.or_zero.symm
    _ = a := by rw [← BitVec.and_or_distrib_left, BitVec.or_not_self, BitVec.and_allOnes]

/-! ### The commands, past their gate -/

theorem codec_of_gate_none {i : Instr} {s : State} (r : Quad) (hg : gate i s = none) :
    codec i r s = .next (finish r s) := by
  unfold codec
  rw [hg]

theorem pteRsvd_of_gate_none {i : Instr} (l : Level) {s : State} (hg : gate i s = none)
    (hp : 13 ≤ s.physBits ∧ s.physBits ≤ 52) :
    pteRsvd i l s = .next (finish
      { Quad.zero with
        v0 := violation l s.args.v0 s.physBits s.nxe
        v1 := boolWord (violation l s.args.v0 s.physBits s.nxe != 0) } s) := by
  unfold pteRsvd
  rw [hg, (physBitsValid_iff s).mpr hp]
  rfl

theorem pteRsvd_badConfig {i : Instr} (l : Level) {s : State} (hg : gate i s = none)
    (hp : ¬ (13 ≤ s.physBits ∧ s.physBits ≤ 52)) : pteRsvd i l s = .next (fail .badConfig s) := by
  unfold pteRsvd
  rw [hg, Bool.eq_false_iff.mpr (mt (physBitsValid_iff s).mp hp)]
  rfl

theorem exec_pteNew (l : Level) {s : State} (hh : s.halted = false) :
    exec (atLevel l .pteNewL1 .pteNewL2 .pteNewL3 .pteNewL4) s = .next (finish (pteNew l s) s) := by
  cases l <;> exact codec_of_gate_none _ (gate_none hh rfl)

theorem exec_pteFlags (l : Level) {s : State} (hh : s.halted = false) :
    exec (atLevel l .pteFlagsL1 .pteFlagsL2 .pteFlagsL3 .pteFlagsL4) s = .next (finish (pteFlags l s) s) := by
  cases l <;> exact codec_of_gate_none _ (gate_none hh rfl)

theorem exec_pteFrame (l : Level) {s : State} (hh : s.halted = false) :
    exec (atLevel l .pteFrameL1 .pteFrameL2 .pteFrameL3 .pteFrameL4) s = .next (finish (pteFrame s) s) := by
  cases l <;> exact codec_of_gate_none _ (gate_none hh rfl)

theorem exec_ptePresent (l : Level) {s : State} (hh : s.halted = false) :
    exec (atLevel l .ptePresentL1 .ptePresentL2 .ptePresentL3 .ptePresentL4) s = .next (finish (ptePresent s) s) := by
  cases l <;> exact codec_of_gate_none _ (gate_none hh rfl)

theorem exec_pteLarge {i : Instr} (hi : i = .pteLargeL2 ∨ i = .pteLargeL3) {s : State} (hh : s.halted = false) :
    exec i s = .next (finish (pteLarge s) s) := by
  rcases hi with rfl | rfl <;> exact codec_of_gate_none _ (gate_none hh rfl)

theorem exec_pteRsvd (l : Level) {s : State} (hh : s.halted = false) (hp : 13 ≤ s.physBits ∧ s.physBits ≤ 52) :
    exec (atLevel l .pteRsvdL1 .pteRsvdL2 .pteRsvdL3 .pteRsvdL4) s = .next (finish
      { Quad.zero with
        v0 := violation l s.args.v0 s.physBits s.nxe
        v1 := boolWord (violation l s.args.v0 s.physBits s.nxe != 0) } s) := by
  cases l <;> exact pteRsvd_of_gate_none _ (gate_none hh rfl) hp

theorem exec_pteRsvd_badConfig (l : Level) {s : State} (hh : s.halted = false)
    (hp : ¬ (13 ≤ s.physBits ∧ s.physBits ≤ 52)) :
    exec (atLevel l .pteRsvdL1 .pteRsvdL2 .pteRsvdL3 .pteRsvdL4) s = .next (fail .badConfig s) := by
  cases l <;> exact pteRsvd_badConfig _ (gate_none hh rfl) hp

/-! ### The statements -/

/-- Settles O8, by the bits of the packed entry. -/
theorem pteNewResult : Obligations.PteNewResult := fun l =>
  ⟨(decode_eq_ok_iff _ _).mpr (by cases l <;> rfl), fun s hh =>
    ⟨packEntry l s.args.v0 s.args.v1, exec_pteNew l hh, fun _ hn => getLsbD_packEntry l s.args.v0 s.args.v1 hn⟩⟩

/-- Settles O9, by the bits of the extracted flags. -/
theorem pteFlagsResult : Obligations.PteFlagsResult := fun l =>
  ⟨(decode_eq_ok_iff _ _).mpr (by cases l <;> rfl), fun s hh =>
    ⟨entryFlags l s.args.v0, exec_pteFlags l hh, fun _ hn => getLsbD_entryFlags l s.args.v0 hn⟩⟩

/-- Settles O10, by the value of the field. -/
theorem pteFrameResult : Obligations.PteFrameResult := fun l =>
  ⟨(decode_eq_ok_iff _ _).mpr (by cases l <;> rfl), fun s hh =>
    ⟨entryFrame s.args.v0, exec_pteFrame l hh, toNat_entryFrame s.args.v0⟩⟩

/-- Settles O11: each answer is a binary digit of ARG0; the words of PTE_LARGE at L1 and L4 are illegal. -/
theorem pteBitTests : Obligations.PteBitTests := by
  refine ⟨fun l => ⟨(decode_eq_ok_iff _ _).mpr (by cases l <;> rfl), fun s hh => ?_⟩,
    decode_encode .pteLargeL2, decode_encode .pteLargeL3, rfl, rfl, fun i s hi hh => ?_⟩
  · rw [exec_ptePresent l hh, ptePresent, entryPresent, boolWord_getLsbD, pow_zero, Nat.div_one]
    rfl
  · rw [exec_pteLarge hi hh, pteLarge, entryLarge, boolWord_getLsbD]
    rfl

/-- Settles O12, by the bits of the violation; its address part is right because PHYS_BITS is at least 13. -/
theorem pteRsvdResult : Obligations.PteRsvdResult := by
  refine fun l => ⟨(decode_eq_ok_iff _ _).mpr (by cases l <;> rfl), fun s hh =>
    ⟨fun hp => ⟨violation l s.args.v0 s.physBits s.nxe, ?_, fun n hn => getLsbD_violation l _ _ hp.1 hn⟩,
      exec_pteRsvd_badConfig l hh⟩⟩
  rw [exec_pteRsvd l hh hp, boolWord_bne_zero]
  rfl

/-- Settles O13: the address field of a packed entry is the address, and its flags are those of the flag word. -/
theorem codecRoundTrip : Obligations.CodecRoundTrip := by
  intro l s hh ha hf
  refine ⟨_, _, _, exec_pteNew l hh, exec_pteFrame l hh, exec_pteFlags l hh, ?_, ?_⟩
  · exact (entryFrame_packEntry l s.args.v0 s.args.v1).trans (and_addrMask_eq_self ha)
  · exact (entryFlags_packEntry l s.args.v0 s.args.v1).trans (entryFlags_eq_self hf)

end Sys2Proof.Machine
end

section
/-! Bit ranges (40_pte_codec.md R145, R146; O14, O15): extraction and insertion bit by bit, the two laws of R146 from
the bits, and the commands past their gate. -/

namespace Sys2Proof.Machine

/-! ### Extraction and insertion, bit by bit -/

theorem getLsbD_bitExtract (v : Word) (lo hi : Nat) {n : Nat} (hn : n < 64) :
    (bitExtract v lo hi).getLsbD n = (decide (n < hi - lo) && v.getLsbD (n + lo)) := by
  unfold bitExtract
  rw [BitVec.getLsbD_and, BitVec.getLsbD_ushiftRight, BitVec.getLsbD_ofNat, Nat.testBit_two_pow_sub_one,
    decide_eq_true hn, Bool.true_and, Bool.and_comm, Nat.add_comm]

/-- The bits BITI replaces. -/
theorem getLsbD_rangeMask (lo hi : Nat) {n : Nat} (hn : n < 64) :
    (BitVec.ofNat 64 ((2 ^ (hi - lo) - 1) * 2 ^ lo)).getLsbD n = decide (lo ≤ n ∧ n < hi) := by
  rw [BitVec.getLsbD_ofNat, Nat.testBit_mul_two_pow, Nat.testBit_two_pow_sub_one, decide_eq_true hn, Bool.true_and,
    ← Bool.decide_and, decide_eq_decide]
  omega

theorem getLsbD_bitInsert (v : Word) (lo hi : Nat) (x : Word) {n : Nat} (hn : n < 64) :
    (bitInsert v lo hi x).getLsbD n = if lo ≤ n ∧ n < hi then x.getLsbD (n - lo) else v.getLsbD n := by
  unfold bitInsert
  rw [BitVec.getLsbD_or, BitVec.getLsbD_and, BitVec.getLsbD_and, BitVec.getLsbD_not, getLsbD_rangeMask lo hi hn,
    BitVec.getLsbD_shiftLeft]
  by_cases h : lo ≤ n ∧ n < hi <;> simp [h, hn]

/-! ### The laws of R146 -/

/-- Extracting from bit 0 is reduction modulo a power of 2. -/
theorem toNat_bitExtract_zero (x : Word) {k : Nat} : (bitExtract x 0 k).toNat = x.toNat % 2 ^ k := by
  have h : bitExtract x 0 k = BitVec.ofNat 64 (x.toNat % 2 ^ k) := by
    apply BitVec.eq_of_getLsbD_eq
    intro n hn
    rw [getLsbD_bitExtract x 0 k hn, BitVec.getLsbD_ofNat, Nat.testBit_mod_two_pow, BitVec.testBit_toNat,
      decide_eq_true hn, Bool.true_and]
    rfl
  rw [h, BitVec.toNat_ofNat, Nat.mod_eq_of_lt ((Nat.mod_le _ _).trans_lt x.isLt)]

theorem bitExtract_bitInsert (v : Word) (lo : Nat) {hi : Nat} (x : Word) (hhi : hi ≤ 64) :
    bitExtract (bitInsert v lo hi x) lo hi = bitExtract x 0 (hi - lo) := by
  apply BitVec.eq_of_getLsbD_eq
  intro n hn
  rw [getLsbD_bitExtract _ lo hi hn, getLsbD_bitExtract x 0 _ hn]
  by_cases h : n < hi - lo
  · rw [getLsbD_bitInsert v lo hi x (by omega), if_pos (by omega)]
    simp
  · simp [h]

theorem bitInsert_bitExtract (v : Word) (lo hi : Nat) : bitInsert v lo hi (bitExtract v lo hi) = v := by
  apply BitVec.eq_of_getLsbD_eq
  intro n hn
  rw [getLsbD_bitInsert v lo hi _ hn]
  split
  next h =>
    rw [getLsbD_bitExtract v lo hi (by omega), decide_eq_true (by omega), Bool.true_and, Nat.sub_add_cancel h.1]
  next => rfl

/-! ### The commands, past their gate -/

theorem bitRangeValid_iff (lo hi : Word) : bitRangeValid lo hi = true ↔ lo.toNat ≤ hi.toNat ∧ hi.toNat ≤ 64 := by
  simp [bitRangeValid]

theorem exec_bitx {s : State} (hh : s.halted = false)
    (hr : s.args.v1.toNat ≤ s.args.v2.toNat ∧ s.args.v2.toNat ≤ 64) : exec .bitx s =
      .next (finish { Quad.zero with v0 := bitExtract s.args.v0 s.args.v1.toNat s.args.v2.toNat } s) := by
  show execBitx s = _
  unfold execBitx
  rw [gate_none hh rfl, (bitRangeValid_iff _ _).mpr hr]
  rfl

theorem exec_bitx_badRange {s : State} (hh : s.halted = false)
    (hr : ¬ (s.args.v1.toNat ≤ s.args.v2.toNat ∧ s.args.v2.toNat ≤ 64)) :
    exec .bitx s = .next (fail .badRange s) := by
  show execBitx s = _
  unfold execBitx
  rw [gate_none hh rfl, Bool.eq_false_iff.mpr (mt (bitRangeValid_iff _ _).mp hr)]
  rfl

theorem exec_biti {s : State} (hh : s.halted = false)
    (hr : s.args.v1.toNat ≤ s.args.v2.toNat ∧ s.args.v2.toNat ≤ 64) : exec .biti s =
      .next (finish
        { Quad.zero with v0 := bitInsert s.args.v0 s.args.v1.toNat s.args.v2.toNat s.args.v3 } s) := by
  show execBiti s = _
  unfold execBiti
  rw [gate_none hh rfl, (bitRangeValid_iff _ _).mpr hr]
  rfl

theorem exec_biti_badRange {s : State} (hh : s.halted = false)
    (hr : ¬ (s.args.v1.toNat ≤ s.args.v2.toNat ∧ s.args.v2.toNat ≤ 64)) :
    exec .biti s = .next (fail .badRange s) := by
  show execBiti s = _
  unfold execBiti
  rw [gate_none hh rfl, Bool.eq_false_iff.mpr (mt (bitRangeValid_iff _ _).mp hr)]
  rfl

/-! ### The statements -/

/-- Settles O14, by the bits of the extracted field. -/
theorem bitxResult : Obligations.BitxResult := by
  refine ⟨decode_encode .bitx, fun s hh => ⟨fun hr => ⟨_, exec_bitx hh hr, fun n hn => ?_⟩, exec_bitx_badRange hh⟩⟩
  rw [getLsbD_bitExtract _ _ _ hn, Bool.and_eq_true, decide_eq_true_iff]

/-- Settles O15, by the bits of the value with the range replaced and by the two laws of R146. -/
theorem bitiResult : Obligations.BitiResult := by
  refine ⟨decode_encode .biti, fun s hh => ⟨fun hr => ⟨?_, ?_⟩, exec_biti_badRange hh⟩⟩
  · refine ⟨_, exec_biti hh hr, fun n hn => ?_, _, exec_bitx hh hr, ?_⟩
    · rw [getLsbD_bitInsert _ _ _ _ hn]
      split <;> rfl
    · exact (congrArg BitVec.toNat (bitExtract_bitInsert s.args.v0 s.args.v1.toNat s.args.v3 hr.2)).trans
        (toNat_bitExtract_zero s.args.v3)
  · exact ⟨_, _, exec_bitx hh hr, exec_biti hh hr,
      bitInsert_bitExtract s.args.v0 s.args.v1.toNat s.args.v2.toNat⟩

end Sys2Proof.Machine
end

section
/-! The arena commands (41_bootstrap_arena.md R160-R167; O16-O18): the rounding of R13 as the one value `alignsUpTo`
names, the search of the map as the first entry that fits, and the commands past their gate. -/

namespace Sys2Proof.Machine

/-! ### Alignment and the map's length -/

theorem exists_two_pow_of_isPow2 {n : Nat} (h : isPow2 n = true) : ∃ j, n = 2 ^ j := by
  unfold isPow2 at h
  obtain ⟨j, _, hj⟩ := List.any_eq_true.mp h
  exact ⟨j, beq_iff_eq.mp hj⟩

theorem isPow2_eq_false {n : Nat} (h : ¬ ∃ j, n = 2 ^ j) : isPow2 n = false :=
  Bool.eq_false_iff.mpr (mt exists_two_pow_of_isPow2 h)

theorem isPow2_pos {n : Nat} (h : isPow2 n = true) : 0 < n := by
  obtain ⟨j, rfl⟩ := exists_two_pow_of_isPow2 h
  exact Nat.two_pow_pos j

/-- `alignUp` computes the least multiple that is at least `a` (00_scope.md R13). -/
theorem alignsUpTo_alignUp (a : Nat) {n : Nat} (hn : 0 < n) : alignsUpTo a n (alignUp a n) := by
  have hdiv := Nat.div_add_mod' (a + n - 1) n
  have hmod := Nat.mod_lt (a + n - 1) hn
  unfold alignUp
  exact ⟨Nat.dvd_mul_left n _, by omega, by omega⟩

/-- Two multiples of `n` in a range of length `n` are equal. -/
theorem alignsUpTo_unique {a n b c : Nat} (hb : alignsUpTo a n b) (hc : alignsUpTo a n c) : b = c := by
  obtain ⟨⟨x, rfl⟩, hb1, hb2⟩ := hb
  obtain ⟨⟨y, rfl⟩, hc1, hc2⟩ := hc
  have hxy : n * x < n * (y + 1) := by rw [Nat.mul_succ]; omega
  have hyx : n * y < n * (x + 1) := by rw [Nat.mul_succ]; omega
  have := Nat.lt_of_mul_lt_mul_left hxy
  have := Nat.lt_of_mul_lt_mul_left hyx
  rw [show x = y by omega]

theorem alignsUpTo_iff {a n b : Nat} (hn : 0 < n) : alignsUpTo a n b ↔ alignUp a n = b :=
  ⟨alignsUpTo_unique (alignsUpTo_alignUp a hn), fun h => h ▸ alignsUpTo_alignUp a hn⟩

theorem mmapTooLong_true {s : State} (h : s.overMax) : s.mmapTooLong = true := by
  obtain ⟨m, hm, hlt⟩ := h
  unfold State.mmapTooLong
  rw [hm]
  exact decide_eq_true hlt

/-! ### The search of the map -/

theorem arenaFit_eq_some_iff {s : State} (hp : isPow2 s.args.v1.toNat = true) (k start : Nat) :
    arenaFit s.usableType s.args.v0.toNat s.args.v1.toNat (s.mapEntry k) = some start ↔ s.arenaFits k start := by
  unfold arenaFit State.arenaFits
  rw [alignsUpTo_iff (isPow2_pos hp), Option.ite_none_right_eq_some, Option.some.injEq]
  constructor
  · rintro ⟨⟨htype, hfits, hlt⟩, rfl⟩
    exact ⟨htype, rfl, hfits, hlt⟩
  · rintro ⟨htype, rfl, hfits, hlt⟩
    exact ⟨⟨htype, hfits, hlt⟩, rfl⟩

theorem arenaFit_eq_none {s : State} (hp : isPow2 s.args.v1.toNat = true) {k : Nat} (h : ∀ b, ¬ s.arenaFits k b) :
    arenaFit s.usableType s.args.v0.toNat s.args.v1.toNat (s.mapEntry k) = none :=
  Option.eq_none_iff_forall_ne_some.mpr fun b hb => h b ((arenaFit_eq_some_iff hp k b).mp hb)

/-- The search passes over the entries in which the arena does not fit. -/
theorem findArena_append {usable : Word} {size align : Nat} {before : List MapEntry}
    (h : ∀ e ∈ before, arenaFit usable size align e = none) (rest : List MapEntry) (k : Nat) :
    findArena usable size align (before ++ rest) k = findArena usable size align rest (k + before.length) := by
  induction before generalizing k with
  | nil => rfl
  | cons e before ih =>
    rw [List.cons_append, findArena, h e List.mem_cons_self]
    dsimp only
    rw [ih (fun e he => h e (List.mem_cons_of_mem _ he)), List.length_cons, Nat.add_right_comm, Nat.add_assoc]

theorem findArena_eq_none {usable : Word} {size align : Nat} {mm : List MapEntry}
    (h : ∀ e ∈ mm, arenaFit usable size align e = none) (k : Nat) : findArena usable size align mm k = none := by
  rw [← List.append_nil mm, findArena_append h]
  rfl

/-- The entries of a range of the map, none of which the arena fits. -/
theorem arenaFit_range_eq_none {s : State} (hp : isPow2 s.args.v1.toNat = true) {n : Nat}
    (h : ∀ k, k < n → ∀ b, ¬ s.arenaFits k b) :
    ∀ e ∈ (List.range n).map s.mapEntry, arenaFit s.usableType s.args.v0.toNat s.args.v1.toNat e = none := by
  intro e he
  obtain ⟨k, hk, rfl⟩ := List.mem_map.mp he
  exact arenaFit_eq_none hp (h k (List.mem_range.mp hk))

/-- The first entry that fits is the one the search answers. -/
theorem findArena_first {s : State} (hp : isPow2 s.args.v1.toNat = true) {n k start : Nat} (hk : k < n)
    (hfit : s.arenaFits k start) (hfirst : ∀ j, j < k → ∀ b, ¬ s.arenaFits j b) :
    findArena s.usableType s.args.v0.toNat s.args.v1.toNat ((List.range n).map s.mapEntry) 0 = some (start, k) := by
  obtain ⟨m, rfl⟩ : ∃ m, n = k + (m + 1) := ⟨n - k - 1, by omega⟩
  rw [List.range_add, List.map_append, findArena_append (arenaFit_range_eq_none hp hfirst), List.range_succ_eq_map,
    List.map_cons, List.map_cons, Nat.add_zero, findArena, (arenaFit_eq_some_iff hp k start).mpr hfit,
    List.length_map, List.length_range, Nat.zero_add]

/-! ### ARENA_FIND past its gate -/

section
variable {s : State} (hg : gate .arenaFind s = none)
include hg

theorem exec_arenaFind_badConfig (hm : s.overMax) : exec .arenaFind s = .next (fail .badConfig s) := by
  rw [exec_arenaFind hg, mmapTooLong_true hm]
  rfl

theorem exec_arenaFind_invalidAlignment (hm : ¬ s.overMax) (hp : ¬ ∃ j, s.args.v1.toNat = 2 ^ j) :
    exec .arenaFind s = .next (fail .invalidAlignment s) := by
  rw [exec_arenaFind hg, mmapTooLong_false hm, isPow2_eq_false hp]
  rfl

/-- The checks passed and the map read undisturbed, ARENA_FIND searches the entries as memory holds them. -/
theorem exec_arenaFind_quiet (hm : ¬ s.overMax) (hp : isPow2 s.args.v1.toNat = true) (hq : s.quiet) :
    exec .arenaFind s = .next (s.afterFind ((List.range s.mmapCount.toNat).map s.mapEntry) s) := by
  rw [exec_arenaFind hg, mmapTooLong_false hm, hp, snapshot_quiet hq]
  rfl

end

/-! ### ARENA_ALLOC past its gate -/

theorem exec_arenaAlloc_error {s : State} {st : Status} (hg : gate .arenaAlloc s = none)
    (ht : take s.args.v0.toNat s.args.v1.toNat s = .error st) : exec .arenaAlloc s = .next (fail st s) := by
  show execArenaAlloc s = _
  unfold execArenaAlloc
  rw [hg, ht]

theorem exec_arenaAlloc_ok {s s1 : State} {start : Nat} (hg : gate .arenaAlloc s = none)
    (ht : take s.args.v0.toNat s.args.v1.toNat s = .ok (start, s1)) :
    exec .arenaAlloc s = .next (finish
      { Quad.zero with v0 := BitVec.ofNat 64 start, v1 := BitVec.ofNat 64 (start + s.args.v0.toNat) } s1) := by
  show execArenaAlloc s = _
  unfold execArenaAlloc
  rw [hg, ht]

/-- The state ARENA_ALLOC leaves, its alignment being legal and the cursor rounded up to `start`. -/
def State.afterAlloc (s : State) (start : Nat) : State :=
  if 2 ^ 64 - 1 < start ∨ s.arena.limit.toNat < start then
    { s with status := .alignmentNotPossible, res := .zero }
  else if s.arena.limit.toNat < start + s.args.v0.toNat then { s with status := .outOfSpace, res := .zero }
  else
    { s with
      arena := { s.arena with cursor := BitVec.ofNat 64 (start + s.args.v0.toNat) }
      status := .ok
      res := { v0 := BitVec.ofNat 64 start, v1 := BitVec.ofNat 64 (start + s.args.v0.toNat), v2 := 0, v3 := 0 } }

theorem take_of_not_isPow2 (size : Nat) {align : Nat} (s : State) (hp : isPow2 align = false) :
    take size align s = .error .invalidAlignment := by
  unfold take
  rw [hp]
  rfl

theorem exec_arenaAlloc_aligned {s : State} (hg : gate .arenaAlloc s = none)
    (hp : isPow2 s.args.v1.toNat = true) :
    exec .arenaAlloc s = .next (s.afterAlloc (alignUp s.arena.cursor.toNat s.args.v1.toNat)) := by
  have hlimit := s.arena.limit.isLt
  unfold State.afterAlloc
  rcases take_cases s.args.v0.toNat s.args.v1.toNat s with
    ⟨hp', _⟩ | ⟨_, hpast, ht⟩ | ⟨_, hin, hshort, ht⟩ | ⟨_, hfits, ht⟩
  · rw [hp] at hp'
    cases hp'
  · rw [exec_arenaAlloc_error hg ht, if_pos (.inr hpast)]
    rfl
  · rw [exec_arenaAlloc_error hg ht, if_neg (by omega), if_pos hshort]
    rfl
  · rw [exec_arenaAlloc_ok hg ht, if_neg (by omega), if_neg (by omega)]
    rfl

/-! ### ARENA_FREE past its gate -/

theorem exec_arenaFree {s : State} (hg : gate .arenaFree s = none) : exec .arenaFree s = .next (finish .zero s) := by
  show execArenaFree s = _
  unfold execArenaFree
  rw [hg]

/-! ### The statements -/

/-- Settles O18: the table of R47 has no entry against ARENA_FREE, so only HALTED turns it away. -/
theorem arenaFreeResult : Obligations.ArenaFreeResult := by
  refine ⟨decode_encode .arenaFree, fun s => ?_⟩
  by_cases hh : s.halted = true
  · rw [exec_of_gate (i := .arenaFree) (gate_of_halted hh nofun nofun), if_pos hh]
    rfl
  · rw [exec_arenaFree (gate_none (Bool.eq_false_iff.mpr hh) rfl), if_neg hh]
    rfl

/-- Settles O17, by the cases of `take`, its start being the only value that `alignsUpTo` allows. -/
theorem arenaAllocResult : Obligations.ArenaAllocResult := by
  refine ⟨decode_encode .arenaAlloc, fun s hh => ⟨fun hbad => ?_, fun hl hv => ?_⟩⟩
  · exact exec_of_gate (gate_of_not_permits hh ((not_permits_iff _ s).mpr (.inr (.inl ⟨.inl rfl, hbad⟩))))
  · have hg : gate .arenaAlloc s = none := gate_none hh (by simp [permits, hl, hv])
    refine ⟨fun hp => ?_, fun start j hj hstart => ?_⟩
    · exact exec_arenaAlloc_error hg (take_of_not_isPow2 _ s (isPow2_eq_false hp))
    · have hp : isPow2 s.args.v1.toNat = true := isPow2_of_word ⟨j, hj⟩
      rw [exec_arenaAlloc_aligned hg hp, (alignsUpTo_iff (isPow2_pos hp)).mp hstart]
      rfl

/-- Settles O16: past the gate and its two checks, ARENA_FIND answers what the search of the map's entries answers. -/
theorem arenaFindResult : Obligations.ArenaFindResult := by
  refine ⟨decode_encode .arenaFind, fun s hh => ⟨fun hbad => ?_, fun hl hv => ?_⟩⟩
  · exact exec_of_gate (gate_of_not_permits hh ((not_permits_iff _ s).mpr (.inl ⟨rfl, hbad⟩)))
  · have hg : gate .arenaFind s = none := gate_none hh (by simp [permits, hl, hv])
    refine ⟨exec_arenaFind_badConfig hg, exec_arenaFind_invalidAlignment hg, fun hm hpow hq => ?_⟩
    have hp : isPow2 s.args.v1.toNat = true := isPow2_of_word hpow
    rw [exec_arenaFind_quiet hg hm hp hq, State.afterFind]
    constructor
    · intro k start hk hfit hfirst
      rw [findArena_first hp hk hfit hfirst]
      rfl
    · intro hnone
      rw [findArena_eq_none (arenaFit_range_eq_none hp hnone)]
      rfl

end Sys2Proof.Machine
end

section
/-! BITMAP_BUILD past its gate with a quiet port (42_bitmap_builder.md R180-R187; O20-O22): its refusals, what the
loop stores and counts when no write is stopped, and the one state a successful build leaves. -/

namespace Sys2Proof.Machine

/-! ### The count of free frames -/

theorem ceilDiv_eight (n : Nat) : ceilDiv n 8 = (n + 7) / 8 := rfl

/-- How many of the frames f, .., f + n - 1 the plan leaves free. -/
def BuildPlan.freeFrom (p : BuildPlan) (f n : Nat) : Nat := ((List.range' f n).filter (fun g => !p.bit g)).length

theorem BuildPlan.freeFrom_add (p : BuildPlan) (f m n : Nat) :
    p.freeFrom f (m + n) = p.freeFrom f m + p.freeFrom (f + m) n := by
  rw [freeFrom, ← List.range'_append_1, List.filter_append, List.length_append]
  rfl

theorem BuildPlan.freeIn_eq (p : BuildPlan) (j : Nat) : p.freeIn j = p.freeFrom (8 * j) 8 := by
  rw [freeFrom, List.range'_eq_map_range, List.filter_map, List.length_map]
  rfl

theorem BuildPlan.freeFrom_byte (p : BuildPlan) (j n : Nat) :
    p.freeFrom (8 * j) (8 * (n + 1)) = p.freeIn j + p.freeFrom (8 * (j + 1)) (8 * n) := by
  rw [Nat.mul_succ, Nat.add_comm, p.freeFrom_add, p.freeIn_eq, Nat.mul_succ]

/-- No padding frame is free (R184). -/
theorem BuildPlan.freeFrom_padding (p : BuildPlan) (n : Nat) : p.freeFrom p.frameCount n = 0 := by
  rw [freeFrom, List.length_eq_zero_iff, List.filter_eq_nil_iff]
  intro f hf
  have hle : p.frameCount ≤ f := (List.mem_range'_1.mp hf).1
  simp [bit, hle]

/-- A bitmap that holds the plan's bits records as many free frames as the plan leaves free, padding included. -/
theorem freeBelow_of_bits {s : State} {p : BuildPlan} {n : Nat} (hbit : ∀ f, f < n → s.frameBit f = p.bit f)
    (hn : p.frameCount ≤ n) : s.freeBelow p.frameCount = p.freeFrom 0 n := by
  obtain ⟨pad, rfl⟩ := Nat.exists_eq_add_of_le hn
  rw [p.freeFrom_add, Nat.zero_add, p.freeFrom_padding, Nat.add_zero, BuildPlan.freeFrom, ← List.range_eq_range']
  exact congrArg List.length (List.filter_congr fun f hf => by rw [hbit f (by have := List.mem_range.mp hf; omega)])

theorem freeBelow_eq_card (s : State) (n : Nat) :
    s.freeBelow n = Nat.card { f : Nat // f < n ∧ s.frameBit f = false } := by
  rw [Nat.subtype_card (((List.range n).filter fun f => !s.frameBit f).toFinset) (by simp),
    List.toFinset_card_of_nodup (List.nodup_range.filter _)]
  rfl

/-! ### The loop, finished -/

/-- What a loop that writes bytes j, .., j + n - 1 has stored (R185). -/
structure Written (s : State) (byte : Nat → Byte) (j n : Nat) (m : Memory) : Prop where
  bytes : ∀ k, j ≤ k → k < j + n → m.read (s.bitmapAddr k) = byte k
  others : ∀ a, (∀ k, j ≤ k → k < j + n → a ≠ s.bitmapAddr k) → m.read a = s.mem.read a

/-- A byte stored first stays, as the bytes after it lie at other addresses. -/
theorem Written.cons {s : State} {byte : Nat → Byte} {j n : Nat} {m : Memory} (hwf : s.mem.wf = true)
    (hn : j + (n + 1) ≤ 2 ^ 64)
    (h : Written { s with mem := s.mem.write (s.bitmapAddr j) (byte j) } byte (j + 1) n m) :
    Written s byte j (n + 1) m := by
  have hother : ∀ a, (∀ k, j + 1 ≤ k → k < j + 1 + n → a ≠ s.bitmapAddr k) →
      m.read a = (s.mem.write (s.bitmapAddr j) (byte j)).read a := h.others
  refine ⟨fun k h1 h2 => ?_, fun a ha => ?_⟩
  · rcases Nat.eq_or_lt_of_le h1 with rfl | hlt
    · have hne : ∀ k, j + 1 ≤ k → k < j + 1 + n → s.bitmapAddr j ≠ s.bitmapAddr k := by
        intro k h1 h2 heq
        have := bitmapAddr_inj (by omega) (by omega) heq
        omega
      rw [hother _ hne, Memory.read_write hwf, if_pos rfl]
    · exact h.bytes k hlt (by omega)
  · rw [hother a fun k h1 h2 => ha k (by omega) (by omega)]
    exact Memory.read_write_of_ne hwf _ (ha j (by omega) (by omega))

theorem buildBytes_quiet (p : BuildPlan) {n j free : Nat} {s : State} (hq : s.quiet) (hwf : s.mem.wf = true)
    (hn : j + n ≤ 2 ^ 64) :
    ∃ m, buildBytes p n j free s = .ok (free + p.freeFrom (8 * j) (8 * n)) { s with mem := m }
      ∧ Written s p.byte j n m := by
  induction n generalizing j free s with
  | zero => exact ⟨s.mem, rfl, fun k h1 h2 => by omega, fun a _ => rfl⟩
  | succ n ih =>
    obtain ⟨m, he, hw⟩ := ih (j := j + 1) (free := free + p.freeIn j)
      (s := { s with mem := s.mem.write (s.bitmapAddr j) (p.byte j) }) hq (Memory.write_wf hwf _ _) (by omega)
    refine ⟨m, ?_, hw.cons hwf hn⟩
    rw [buildBytes, writeByte_quiet hq]
    dsimp only
    rw [he, p.freeFrom_byte, Nat.add_assoc]

/-! ### The state a build leaves -/

/-- The state BITMAP_BUILD leaves with OK (R180): the registers of its writes, the memory written, and the response. -/
def State.built (s : State) (frames : Nat) (m : Memory) : State :=
  finish
    { v0 := s.arena.cursor, v1 := BitVec.ofNat 64 ((frames + 7) / 8), v2 := BitVec.ofNat 64 frames
      v3 := BitVec.ofNat 64 ((s.buildStopped frames s.answers m).freeBelow frames) }
    { s.buildStopped frames s.answers m with lifecycle := .built, arenaValid := false }

theorem building_self (s : State) (frames : Nat) :
    s.building s.arena.cursor.toNat frames = s.buildStopped frames s.answers s.mem :=
  building_eq s s.answers frames

/-- The bits of the bitmap a build leaves. -/
theorem Written.frameBit {s : State} {frames n : Nat} {p : BuildPlan} {m : Memory}
    (h : Written (s.buildStopped frames s.answers s.mem) p.byte 0 n m) {f : Nat} (hf : f < 8 * n) :
    (s.buildStopped frames s.answers m).frameBit f = p.bit f := by
  have hbyte : m.read ((s.buildStopped frames s.answers m).bitmapAddr (f / 8)) = p.byte (f / 8) :=
    h.bytes (f / 8) (by omega) (by omega)
  have hbit := frameBit_of_byte (s.buildStopped frames s.answers m) (f / 8) (i := f % 8) (by omega)
  rw [Nat.div_add_mod] at hbit
  rw [hbit]
  show (m.read _).getLsbD _ = _
  rw [hbyte, getLsbD_buildByte p _ (by omega), Nat.div_add_mod]

/-! ### BITMAP_BUILD by its checks -/

theorem gate_bitmapBuild {s : State} (hh : s.halted = false) (hl : s.lifecycle = .uninit) (hv : s.arenaValid = true) :
    gate .bitmapBuild s = none :=
  gate_none hh (by simp [permits, hl, hv])

theorem exec_bitmapBuild_badState {s : State} (hh : s.halted = false)
    (hbad : s.lifecycle ≠ .uninit ∨ s.arenaValid = false) :
    exec .bitmapBuild s = .next (fail .badState s) :=
  exec_of_gate (gate_of_not_permits hh ((not_permits_iff _ s).mpr (.inr (.inl ⟨.inr rfl, hbad⟩))))

section
variable {s : State} (hg : gate .bitmapBuild s = none)
include hg

theorem exec_bitmapBuild_badConfig (hm : s.overMax) : exec .bitmapBuild s = .next (fail .badConfig s) := by
  rw [exec_bitmapBuild hg, mmapTooLong_true hm]
  rfl

/-- The check passed and the map read undisturbed, BITMAP_BUILD goes on with the entries as memory holds them. -/
theorem exec_bitmapBuild_quiet (hm : ¬ s.overMax) (hq : s.quiet) :
    exec .bitmapBuild s = s.afterSnapshot s.mapEntries s := by
  rw [exec_bitmapBuild hg, mmapTooLong_false hm, snapshot_quiet hq]
  rfl

theorem exec_bitmapBuild_exhausted (hm : ¬ s.overMax) (hq : s.quiet)
    (hfull : s.arena.limit.toNat < s.arena.cursor.toNat + ceilDiv (mapFrames s.mapEntries) 8) :
    exec .bitmapBuild s = .next (raiseFatal (arenaExhausted (ceilDiv (mapFrames s.mapEntries) 8) s) s) := by
  rw [exec_bitmapBuild_quiet hg hm hq, State.afterSnapshot, if_pos hfull]

theorem exec_bitmapBuild_fits (hm : ¬ s.overMax) (hq : s.quiet) (hwf : s.mem.wf = true)
    (hfit : s.arena.cursor.toNat + ceilDiv (mapFrames s.mapEntries) 8 ≤ s.arena.limit.toNat) :
    ∃ m, exec .bitmapBuild s = .next (s.built (mapFrames s.mapEntries) m)
      ∧ Written (s.buildStopped (mapFrames s.mapEntries) s.answers s.mem)
          (buildPlan s s.mapEntries s.arena.cursor.toNat).byte 0 (ceilDiv (mapFrames s.mapEntries) 8) m := by
  have hlt := ceilDiv_mapFrames_lt s.mapEntries
  obtain ⟨m, he, hw⟩ := buildBytes_quiet (buildPlan s s.mapEntries s.arena.cursor.toNat)
    (n := ceilDiv (mapFrames s.mapEntries) 8) (j := 0) (free := 0)
    (s := s.buildStopped (mapFrames s.mapEntries) s.answers s.mem) hq hwf (by omega)
  have hfree := freeBelow_of_bits (p := buildPlan s s.mapEntries s.arena.cursor.toNat) (fun f hf => hw.frameBit hf)
    (show mapFrames s.mapEntries ≤ 8 * ceilDiv (mapFrames s.mapEntries) 8 by rw [ceilDiv_eight]; omega)
  refine ⟨m, ?_, hw⟩
  rw [exec_bitmapBuild_quiet hg hm hq, State.afterSnapshot, if_neg (by omega), State.buildAt, building_self, he,
    Access.orFatal_ok, Nat.zero_add, Nat.mul_zero, ← hfree, BitVec.ofNat_toNat, BitVec.setWidth_eq]
  rfl

end

/-- BITMAP_BUILD with a quiet port ends with OK only past every check, in the state of a build. -/
theorem exec_bitmapBuild_ok {s t : State} (hh : s.halted = false) (hq : s.quiet) (hwf : s.mem.wf = true)
    (h : exec .bitmapBuild s = .next t) (hok : t.status = .ok) :
    ∃ m, t = s.built (mapFrames s.mapEntries) m
      ∧ Written (s.buildStopped (mapFrames s.mapEntries) s.answers s.mem)
          (buildPlan s s.mapEntries s.arena.cursor.toNat).byte 0 (ceilDiv (mapFrames s.mapEntries) 8) m := by
  have notOk : ∀ u, exec .bitmapBuild s = .next u → u.status = .ok := by
    intro u hu
    rw [h] at hu
    cases hu
    exact hok
  by_cases hbad : s.lifecycle ≠ .uninit ∨ s.arenaValid = false
  · cases notOk _ (exec_bitmapBuild_badState hh hbad)
  obtain ⟨hl, hv⟩ := not_or.mp hbad
  have hg := gate_bitmapBuild hh (not_not.mp hl) (Bool.eq_true_of_not_eq_false hv)
  by_cases hm : s.overMax
  · cases notOk _ (exec_bitmapBuild_badConfig hg hm)
  by_cases hfull : s.arena.limit.toNat < s.arena.cursor.toNat + ceilDiv (mapFrames s.mapEntries) 8
  · cases notOk _ (exec_bitmapBuild_exhausted hg hm hq hfull)
  obtain ⟨m, he, hw⟩ := exec_bitmapBuild_fits hg hm hq hwf (by omega)
  rw [h] at he
  cases he
  exact ⟨m, rfl, hw⟩

/-! ### The statements -/

theorem mapFrames_of_spanIs {s : State} {span : Nat} (h : s.spanIs span) : mapFrames s.mapEntries = span / 4096 := by
  rw [mapFrames, mapSpan_of_spanIs h]
  rfl

/-- Settles O20: the build fits the arena, and the loop has stored the plan's bytes. -/
theorem bitmapBuildResult : Obligations.BitmapBuildResult := by
  refine ⟨decode_encode .bitmapBuild, ?_⟩
  rintro s span fc nb hh hl hv hm hq hwf hspan rfl rfl hfit
  obtain ⟨m, he, hw⟩ := exec_bitmapBuild_fits (gate_bitmapBuild hh hl hv) hm hq hwf
    (by rwa [mapFrames_of_spanIs hspan, ceilDiv_eight])
  rw [mapFrames_of_spanIs hspan] at he hw
  rw [ceilDiv_eight] at hw
  refine ⟨m, s.built (span / 4096) m, he, rfl, fun f hf => ?_, fun a ha => ?_⟩
  · have hbit : (s.built (span / 4096) m).frameBit f = _ := hw.frameBit hf
    rw [hbit, buildPlan_bit_iff, mapFrames_of_spanIs hspan, ceilDiv_eight]
  · exact hw.others a fun j _ hj => ha j (by omega)

/-- Settles O21, by the checks of BITMAP_BUILD in their order. -/
theorem bitmapBuildRefusals : Obligations.BitmapBuildRefusals := by
  refine fun s hh => ⟨exec_bitmapBuild_badState hh, fun hl hv => ?_⟩
  have hg := gate_bitmapBuild hh hl hv
  refine ⟨exec_bitmapBuild_badConfig hg, ?_⟩
  rintro span nb hm hq hspan rfl hfull
  rw [← ceilDiv_eight, ← mapFrames_of_spanIs hspan] at hfull ⊢
  exact exec_bitmapBuild_exhausted hg hm hq hfull

/-- Settles O22: without RESERVE_SELF only the map marks a frame below FRAME_COUNT. -/
theorem buildLaws : Obligations.BuildLaws := by
  intro s t hs hh hq hr h hok
  obtain ⟨m, rfl, hw⟩ := exec_bitmapBuild_ok hh hq hs.memCanonical h hok
  have hle := mapFrames_le s.mapEntries
  have hframes : (s.built (mapFrames s.mapEntries) m).bitmap.frameCount.toNat = mapFrames s.mapEntries :=
    Nat.mod_eq_of_lt (by omega)
  have hbytes : (s.built (mapFrames s.mapEntries) m).bitmap.bytes.toNat = (mapFrames s.mapEntries + 7) / 8 :=
    Nat.mod_eq_of_lt (by omega)
  rw [hframes, hbytes]
  have hused : ∀ f, f < mapFrames s.mapEntries →
      ((s.built (mapFrames s.mapEntries) m).frameBit f = true ↔ ∃ k, k < s.mmapCount.toNat ∧ s.mapMarks k f) := by
    intro f hf
    have hbit : (s.built (mapFrames s.mapEntries) m).frameBit f = _ := hw.frameBit (by rw [ceilDiv_eight]; omega)
    rw [hbit, buildPlan_bit_iff, hr]
    simp [Nat.not_le.mpr hf]
  have hfree : ∀ f, f < mapFrames s.mapEntries →
      ((s.built (mapFrames s.mapEntries) m).frameBit f = false ↔ ¬ ∃ k, k < s.mmapCount.toNat ∧ s.mapMarks k f) :=
    fun f hf => Bool.eq_false_iff.trans (not_congr (hused f hf))
  refine ⟨hfree, ?_, by omega, by omega, fun f k hf hk htype hlen hover hend => ?_⟩
  · rw [freeBelow_eq_card]
    exact Nat.card_congr (Equiv.subtypeEquivRight fun f => and_congr_right (hfree f))
  · exact (hused f hf).mpr ⟨k, hk, htype, hlen, by omega, hover⟩

end Sys2Proof.Machine
end

section
/-! WALK_START past its gate, and WALK_NEXT where no walk is under way (43_page_walker.md R206, R212, R213; O23,
O24). -/

namespace Sys2Proof.Machine

theorem physBitsValid_eq_false {s : State} (h : ¬ (13 ≤ s.physBits ∧ s.physBits ≤ 52)) : s.physBitsValid = false :=
  Bool.eq_false_iff.mpr (mt (physBitsValid_iff s).mp h)

theorem gate_walkStart {s : State} (hh : s.halted = false) : gate .walkStart s = none := gate_none hh rfl

section
variable {s : State} (hh : s.halted = false)
include hh

/-! ### WALK_START -/

theorem exec_walkStart_badConfig (hp : s.physBitsValid = false) : exec .walkStart s = .next (fail .badConfig s) := by
  show execWalkStart s = _
  unfold execWalkStart
  rw [gate_walkStart hh, hp]
  rfl

theorem exec_walkStart_reserved (hp : s.physBitsValid = true) (hc : s.args.v0 &&& physMask s.physBits ≠ 0) :
    exec .walkStart s = .next (raiseFatal (reservedBit 0 0 s.args.v0) s) := by
  show execWalkStart s = _
  unfold execWalkStart initWalk
  rw [gate_walkStart hh, hp, if_pos (bne_iff_ne.mpr hc)]
  rfl

theorem exec_walkStart_open (ho : s.walkOpen) :
    exec .walkStart s = .next (finish { Quad.zero with v0 := rootTable s.args.v0 } s.atRoot) := by
  show execWalkStart s = _
  unfold execWalkStart initWalk
  rw [gate_walkStart hh, ho.1, ho.2]
  rfl

/-! ### WALK_NEXT outside a walk -/

theorem exec_walkNext_idle (hw : s.walker = .idle) : exec .walkNext s = .next (fail .walkIdle s) := by
  show execWalkNext s = _
  unfold execWalkNext
  rw [gate_walkNext hh]
  dsimp only
  rw [hw]

theorem exec_walkNext_badConfig (hw : s.walker ≠ .idle) (hp : s.physBitsValid = false) :
    exec .walkNext s = .next (fail .badConfig s) := by
  show execWalkNext s = _
  unfold execWalkNext
  rw [gate_walkNext hh]
  cases e : s.walker with
  | idle => exact absurd e hw
  | active l p => simp only [hp, Bool.not_false, if_true]
  | done p => simp only [hp, Bool.not_false, if_true]

theorem exec_walkNext_done {p : WalkPos} (hw : s.walker = .done p) (hp : s.physBitsValid = true) :
    exec .walkNext s = .next (finish .zero s) := by
  show execWalkNext s = _
  unfold execWalkNext
  rw [gate_walkNext hh]
  dsimp only
  rw [hw]
  simp only [hp, Bool.not_true, Bool.false_eq_true, if_false]

end

/-! ### The statements -/

/-- Settles O23, by the two checks of WALK_START in their order. -/
theorem walkStartResult : Obligations.WalkStartResult := by
  refine ⟨decode_encode .walkStart, fun s hh => ⟨fun hp => ?_, fun hp hr => ?_, fun hp hr => ?_⟩⟩
  · exact exec_walkStart_badConfig hh (physBitsValid_eq_false hp)
  · exact exec_walkStart_reserved hh ((physBitsValid_iff s).mpr hp)
      (mt (and_physMask_eq_zero_iff hp.1 s.args.v0).mp (not_not.mpr hr))
  · exact exec_walkStart_open hh (walkOpen_of hp hr)

/-- Settles O24: WALK_IDLE comes before BAD_CONFIG, and both before the answer of a finished walk. -/
theorem walkNextOutsideWalk : Obligations.WalkNextOutsideWalk :=
  ⟨decode_encode .walkNext, fun s hh => ⟨exec_walkNext_idle hh,
    fun hw hp => exec_walkNext_badConfig hh hw (physBitsValid_eq_false hp),
    fun _ hw hp => exec_walkNext_done hh hw ((physBitsValid_iff s).mpr hp)⟩⟩

end Sys2Proof.Machine
end

section
/-! WALK_NEXT by what the first iteration of ADVANCE does (43_page_walker.md R204-R211, R213; O25): it ends there, or
goes on as from the position the iteration leaves. -/

namespace Sys2Proof.Machine

/-! ### The bound and the walker registers do not matter to ADVANCE -/

/-- ADVANCE within the bound of R217 does not depend on the bound. -/
theorem advance_fuel {n m : Nat} {l : Level} {p : WalkPos} {s : State} (hn : walkCost l p < n) (hm : walkCost l p < m) :
    advance n l p s = advance m l p s := by
  induction n generalizing m l p s with
  | zero => omega
  | succ n ih =>
    obtain ⟨m, rfl⟩ : ∃ k, m = k + 1 := ⟨m - 1, by omega⟩
    rw [advance, advance]
    cases e : advanceOnce l p s with
    | again l' p' s' =>
      have hcost : walkCost l' p' < walkCost l p := advanceOnce_cost (by rw [e]; rfl)
      exact ih (by omega) (by omega)
    | record | exhausted | fatal => rfl

/-- The outcome of an iteration, with other walker registers where it goes on. -/
def WalkIter.withWalker (w : Walker) : WalkIter → WalkIter
  | .again l p s => .again l p { s with walker := w }
  | .record r l p s => .record r l p s
  | .exhausted s => .exhausted s
  | .fatal f s => .fatal f s

/-- The outcome of a read, with other walker registers. -/
def Access.withWalker {α : Type} (w : Walker) : Access α → Access α
  | .ok v s => .ok v { s with walker := w }
  | .fatal f s => .fatal f { s with walker := w }

theorem readWord_withWalker (w : Walker) (a : Word) (s : State) :
    readWord a { s with walker := w } = (readWord a s).withWalker w := by
  have hanswer : ({ s with walker := w } : State).nextAnswer = s.nextAnswer := rfl
  unfold readWord
  rw [hanswer]
  cases s.nextAnswer <;> rfl

theorem followEntry_withWalker (w : Walker) (l : Level) (p : WalkPos) (e : Word) (s : State) :
    followEntry l p e { s with walker := w } = (followEntry l p e s).withWalker w := by
  cases l with
  | l1 | l4 => rfl
  | l2 | l3 => simp only [followEntry]; split <;> rfl

theorem visitEntry_withWalker (w : Walker) (l : Level) (p : WalkPos) (e : Word) (s : State) :
    visitEntry l p e { s with walker := w } = (visitEntry l p e s).withWalker w := by
  by_cases hpres : entryPresent e = true
  · by_cases hv : violation l e s.physBits s.nxe = 0
    · rw [visitEntry_clean hpres hv, visitEntry_clean (s := { s with walker := w }) hpres hv, followEntry_withWalker]
    · rw [visitEntry_reserved hpres hv, visitEntry_reserved (s := { s with walker := w }) hpres hv]
      rfl
  · have habs := Bool.eq_false_iff.mpr hpres
    rw [visitEntry_absent habs, visitEntry_absent habs]
    rfl

theorem advanceOnce_withWalker (w : Walker) (l : Level) (p : WalkPos) (s : State) :
    advanceOnce l p { s with walker := w } = (advanceOnce l p s).withWalker w := by
  have hphys : ({ s with walker := w } : State).phys (p.entryAddr l) = s.phys (p.entryAddr l) := rfl
  unfold advanceOnce
  rw [hphys, readWord_withWalker]
  split
  · cases l <;> rfl
  · cases readWord (s.phys (p.entryAddr l)) s with
    | ok e s1 => exact visitEntry_withWalker w l p e s1
    | fatal f s1 => rfl

/-- ADVANCE writes the walker registers where it ends and reads them nowhere (R204). -/
theorem advance_withWalker (w : Walker) (n : Nat) (l : Level) (p : WalkPos) (s : State) :
    advance n l p { s with walker := w } = advance n l p s := by
  induction n generalizing l p s with
  | zero => rfl
  | succ n ih =>
    rw [advance, advance, advanceOnce_withWalker]
    cases advanceOnce l p s with
    | again l' p' s' => exact ih l' p' s'
    | record | exhausted | fatal => rfl

theorem advance_of_exhausted {l : Level} {p : WalkPos} {s s' : State} (h : advanceOnce l p s = .exhausted s') :
    advance walkFuel l p s = .exhausted s' := by
  rw [walkFuel_succ, advance, h]

theorem advance_of_again {l l' : Level} {p p' : WalkPos} {s s' : State} (h : advanceOnce l p s = .again l' p' s') :
    advance walkFuel l p s = advance walkFuel l' p' s' := by
  have hcost : walkCost l' p' < walkCost l p := advanceOnce_cost (by rw [h]; rfl)
  have hfuel := walkCost_lt_fuel l p
  conv_lhs => rw [walkFuel_succ, advance, h]
  exact advance_fuel (by omega) (by omega)

/-! ### WALK_NEXT -/

/-- The iteration at an entry, with a quiet port. -/
theorem advanceOnce_quiet {l : Level} {p : WalkPos} {s : State} (h : (p.idx l).val < 512) (hq : s.quiet) :
    advanceOnce l p s = visitEntry l p (s.tables.at (p.tbl l) (p.idx l).val) s :=
  advanceOnce_read h (readWord_quiet hq _)

section
variable {s s' : State} {l : Level} {p : WalkPos} (hh : s.halted = false) (hp : s.physBitsValid = true)
  (hw : s.walker = .active l p)
include hh hp hw

theorem exec_walkNext_of_exhausted (h : advanceOnce l p s = .exhausted s') :
    exec .walkNext s = .next (finish .zero s') := by
  rw [exec_walkNext_active hh hw hp, advance_of_exhausted h]
  rfl

/-- A fault at an entry leaves the walker where it stands (R309). -/
theorem exec_walkNext_of_fatal {f : FatalFault} (h : advanceOnce l p s = .fatal f { s with walker := .active l p }) :
    exec .walkNext s = .next (raiseFatal f s) := by
  rw [exec_walkNext_active hh hw hp, advance_of_fatal h, ← hw]
  rfl

theorem exec_walkNext_of_record {r : WalkRecord} {l' : Level} {p' : WalkPos}
    (h : advanceOnce l p s = .record r l' p' s') :
    exec .walkNext s = .next (finish { v0 := r.va, v1 := r.pa, v2 := pageSizeCode r.size, v3 := 1 } s') := by
  rw [exec_walkNext_active hh hw hp, advance_of_record h]
  rfl

theorem exec_walkNext_of_again {l' : Level} {p' : WalkPos} (h : advanceOnce l p s = .again l' p' s) :
    exec .walkNext s = exec .walkNext { s with walker := .active l' p' } := by
  rw [exec_walkNext_active hh hw hp, exec_walkNext_active (s := { s with walker := .active l' p' }) hh rfl hp,
    advance_of_again h]
  exact congrArg Advance.result (advance_withWalker _ _ _ _ _).symm

end

/-- The table above an exhausted one is left past the entry that led down (R204). -/
theorem popTable_below {l l' : Level} (p : WalkPos) (s : State) (hl : levelNumber l' = levelNumber l + 1) :
    popTable l p s = .again l' (p.bump l') s := by
  cases l <;> cases l' <;> cases hl <;> rfl

/-! ### A present entry without reserved bits, level by level (R207, R208, R210, R211) -/

theorem followEntry_l1 {p : WalkPos} (e : Word) (s : State) (hin : (p.idx .l1).val < 512) (hp : p.onPath .l1) :
    followEntry .l1 p e s =
      yieldRecord { va := canonicalAddress p.idx4 p.idx3 p.idx2 p.idx1, pa := e &&& addrMask, size := .kib4 }
        .l1 p s := by
  have hva := virtualAddress_eq (hp .l4 (by decide)) (hp .l3 (by decide)) (hp .l2 (by decide)) hin
  exact congrArg (fun va => yieldRecord { va := va, .. } .l1 p s) hva

theorem followEntry_l2_large {p : WalkPos} {e : Word} (s : State) (hlarge : entryLarge e = true)
    (hin : (p.idx .l2).val < 512) (hp : p.onPath .l2) :
    followEntry .l2 p e s =
      yieldRecord { va := canonicalAddress p.idx4 p.idx3 p.idx2 0, pa := e &&& 0x000FFFFFFFE00000, size := .mib2 }
        .l2 p s := by
  have hva := virtualAddress_eq (i1 := 0) (hp .l4 (by decide)) (hp .l3 (by decide)) hin (by decide)
  rw [followEntry, if_pos hlarge, start2M_eq]
  exact congrArg (fun va => yieldRecord { va := va, .. } .l2 p s) hva

theorem followEntry_l3_large (p : WalkPos) {e : Word} (s : State) (hlarge : entryLarge e = true) :
    followEntry .l3 p e s = .fatal (unsupportedPage (p.entryAddr .l3) e) { s with walker := .active .l3 p } := by
  rw [followEntry, if_pos hlarge]

theorem followEntry_enter {l : Level} (p : WalkPos) {e : Word} (s : State)
    (h : l = .l4 ∨ (l = .l3 ∨ l = .l2) ∧ entryLarge e = false) :
    followEntry l p e s = .again (belowOf l) (p.enter (belowOf l) (e &&& addrMask)) s := by
  rcases h with rfl | ⟨rfl | rfl, hsmall⟩
  · rfl
  · rw [followEntry, if_neg (by simp [hsmall])]
    rfl
  · rw [followEntry, if_neg (by simp [hsmall])]
    rfl

/-! ### The statement -/

/-- Settles O25, by the branches of one iteration of ADVANCE. -/
theorem walkNextIterations : Obligations.WalkNextIterations := by
  rintro s l p e hh hq hphys hw rfl
  have hp := (physBitsValid_iff s).mpr hphys
  refine ⟨fun hend hl => ?_, fun hend l' hl => ?_, fun hin habs => ?_, fun hin hpres hv => ?_, fun hin hpres hv => ?_⟩
  · subst hl
    exact exec_walkNext_of_exhausted hh hp hw (advanceOnce_end hend)
  · exact exec_walkNext_of_again hh hp hw ((advanceOnce_end hend).trans (popTable_below p s hl))
  · exact exec_walkNext_of_again hh hp hw ((advanceOnce_quiet hin hq).trans (visitEntry_absent habs))
  · exact exec_walkNext_of_fatal hh hp hw ((advanceOnce_quiet hin hq).trans (visitEntry_reserved hpres hv))
  · have hvisit := (advanceOnce_quiet hin hq).trans (visitEntry_clean hpres hv)
    refine ⟨?_, ?_, ?_, ?_, ?_, ?_⟩
    · rintro rfl hpath
      exact exec_walkNext_of_record hh hp hw (hvisit.trans (followEntry_l1 _ s hin hpath))
    · rintro rfl hlarge hpath
      exact exec_walkNext_of_record hh hp hw (hvisit.trans (followEntry_l2_large s hlarge hin hpath))
    · rintro rfl hlarge
      exact exec_walkNext_of_fatal hh hp hw (hvisit.trans (followEntry_l3_large p s hlarge))
    · rintro rfl hsmall
      exact exec_walkNext_of_again hh hp hw (hvisit.trans (followEntry_enter p s (.inr ⟨.inr rfl, hsmall⟩)))
    · rintro rfl hsmall
      exact exec_walkNext_of_again hh hp hw (hvisit.trans (followEntry_enter p s (.inr ⟨.inl rfl, hsmall⟩)))
    · rintro rfl
      exact exec_walkNext_of_again hh hp hw (hvisit.trans (followEntry_enter p s (.inl rfl)))

end Sys2Proof.Machine
end

section
/-! WALK_NEXT against the mappings ahead (43_page_walker.md R202-R208, R213; O26), and from WALK_START on, command after
command (O27). -/

namespace Sys2Proof.Machine

/-- Memory as it stands, all tables of it. -/
theorem reads_tables {s : State} (hq : s.quiet) : s.Reads s.tables (fun _ _ => True) :=
  ⟨hq, rfl, rfl, fun _ _ _ _ _ => rfl⟩

theorem closed_all (v : TableView) : v.Closed (fun _ _ => True) :=
  ⟨fun _ _ _ _ _ => trivial, fun _ _ _ _ _ => trivial, fun _ _ _ _ _ _ => trivial⟩

/-- The answer of WALK_NEXT with a record (R213). -/
def WalkRecord.answer (r : WalkRecord) : Quad := { v0 := r.va, v1 := r.pa, v2 := pageSizeCode r.size, v3 := 1 }

/-- All WALK_NEXT can do in a walk, with a quiet port: take the first of the mappings ahead, say that the walk is over,
or end in the fault that stands first ahead. -/
theorem exec_walkNext_ahead {s : State} {l : Level} {p : WalkPos} (hh : s.halted = false) (hq : s.quiet)
    (hphys : s.physBitsValid = true) (hw : s.walker = .active l p) (hp : p.onPath l) :
    (∃ r l' p', exec .walkNext s = .next (finish r.answer { s with walker := .active l' p' }) ∧ p'.onPath l'
        ∧ s.tables.ahead l p = (Enumeration.one r).andThen (s.tables.ahead l' p'))
      ∨ (∃ p', exec .walkNext s = .next (finish .zero { s with walker := .done p' }) ∧ s.tables.ahead l p = .nothing)
      ∨ ∃ f l' p', exec .walkNext s = .next (raiseFatal f { s with walker := .active l' p' }) ∧ p'.onPath l'
        ∧ f.info1 = entryAt (p'.tbl l') (p'.idx l').val ∧ s.tables.ahead l p = .fault f := by
  rw [exec_walkNext_active hh hw hphys]
  have hmatch := advance_matches walkFuel (reads_tables hq) (closed_all _) hp (fun _ _ => trivial)
  cases e : advance walkFuel l p s with
  | unfinished => exact absurd e (advance_finishes s (walkCost_lt_fuel l p))
  | record r l' p' s' =>
    rw [e] at hmatch
    obtain ⟨rfl, hahead, _, hp'⟩ := hmatch
    exact .inl ⟨r, l', p', rfl, hp', hahead⟩
  | exhausted s' =>
    rw [e] at hmatch
    obtain ⟨hahead, p', rfl⟩ := hmatch
    exact .inr (.inl ⟨p', rfl, hahead⟩)
  | fatal f s' =>
    rw [e] at hmatch
    obtain ⟨hahead, l', p', rfl, hinfo⟩ := hmatch
    obtain ⟨_, _, hw', hp'⟩ := advance_fault_walker e hp
    cases hw'
    exact .inr (.inr ⟨f, l', p', rfl, hp', hinfo, hahead⟩)

/-- Settles O26, by the cases of `exec_walkNext_ahead` against the three shapes of what is ahead. -/
theorem walkNextTakesTheNext : Obligations.WalkNextTakesTheNext := by
  intro s l p hh hq hphys hw hp
  rcases exec_walkNext_ahead hh hq ((physBitsValid_iff s).mpr hphys) hw hp with
    ⟨r, l', p', he, hp', hahead⟩ | ⟨p', he, hahead⟩ | ⟨f, l', p', he, hp', hinfo, hahead⟩ <;> rw [hahead, he]
  · refine ⟨nofun, nofun, fun r' rest hr => ?_⟩
    cases hr
    exact ⟨l', p', rfl, hp', rfl⟩
  · exact ⟨fun _ _ => ⟨p', rfl⟩, nofun, nofun⟩
  · refine ⟨nofun, fun f' _ hf => ?_, nofun⟩
    cases hf
    exact ⟨l', p', rfl, hp', hinfo⟩

/-- WALK_NEXT, command after command, answers the mappings ahead of a position. -/
theorem yields_ahead {s : State} {l : Level} {p : WalkPos} (hh : s.halted = false) (hq : s.quiet)
    (hphys : s.physBitsValid = true) (hw : s.walker = .active l p) (hp : p.onPath l) :
    ∃ t, s.yields (s.tables.ahead l p).records (s.tables.ahead l p).stop t := by
  induction hn : (s.tables.ahead l p).records generalizing s l p with
  | nil =>
    rcases exec_walkNext_ahead hh hq hphys hw hp with
      ⟨r, l', p', he, hp', hahead⟩ | ⟨p', he, hahead⟩ | ⟨f, l', p', he, hp', hinfo, hahead⟩ <;> rw [hahead] at hn ⊢
    · cases hn
    · exact ⟨_, he, rfl, rfl⟩
    · exact ⟨_, _, he, rfl⟩
  | cons r rest ih =>
    rcases exec_walkNext_ahead hh hq hphys hw hp with
      ⟨r, l', p', he, hp', hahead⟩ | ⟨p', he, hahead⟩ | ⟨f, l', p', he, hp', hinfo, hahead⟩ <;> rw [hahead] at hn ⊢
    · cases hn
      obtain ⟨t, ht⟩ := ih (s := finish r.answer { s with walker := .active l' p' }) hh hq hphys rfl hp' rfl
      exact ⟨t, _, he, rfl, rfl, ht⟩
    · cases hn
    · cases hn

/-- Everything is ahead of the root. -/
theorem ahead_init (v : TableView) (cr3 : Word) : v.ahead .l4 (.init cr3) = v.mappings cr3 := rfl

theorem onPath_init (cr3 : Word) : (WalkPos.init cr3).onPath .l4 := (Walker.wf_active.mp (Walker.wf_init cr3)).2

/-- Settles O27: WALK_START leaves the position with everything ahead. -/
theorem walkEnumerates : Obligations.WalkEnumerates := by
  intro s hh hq hphys hr
  have ho := walkOpen_of hphys hr
  obtain ⟨t, ht⟩ := yields_ahead (s := finish { Quad.zero with v0 := rootTable s.args.v0 } s.atRoot) hh hq ho.1 rfl
    (onPath_init s.args.v0)
  exact ⟨_, t, exec_walkStart_open hh ho, rfl, ht⟩

end Sys2Proof.Machine
end

section
/-! The records of WALK_NEXT (43_page_walker.md R210, R211; O28), whatever the port answers and wherever the walker
stands. -/

namespace Sys2Proof.Machine

/-! ### The virtual address and the physical start -/

theorem getLsbD_virtualAddress_sign (i4 i3 i2 i1 : Nat) {n : Nat} (h1 : 48 ≤ n) (h2 : n < 64) :
    (virtualAddress i4 i3 i2 i1).getLsbD n = (virtualAddress i4 i3 i2 i1).getLsbD 47 := by
  unfold virtualAddress
  rw [BitVec.getLsbD_signExtend, BitVec.getLsbD_signExtend, if_neg (by omega), if_pos (by omega), decide_eq_true h2,
    BitVec.msb_eq_getLsbD_last]
  rfl

/-- Bits 11:0 are 0, and so are bits 20:12 where the last index is (R211). -/
theorem getLsbD_virtualAddress_low (i4 i3 i2 : Nat) {i1 n : Nat} (h : n < 12 ∨ i1 = 0 ∧ n < 21) :
    (virtualAddress i4 i3 i2 i1).getLsbD n = false := by
  unfold virtualAddress
  rw [BitVec.getLsbD_signExtend, if_pos (by omega)]
  rcases h with h | ⟨rfl, h⟩ <;>
    simp [BitVec.getLsbD_or, BitVec.getLsbD_shiftLeft, show n < 39 by omega, show n < 30 by omega,
      show n < 21 by omega, h]

theorem toNat_mod_of_low_clear {v : Word} {k : Nat} (h : ∀ n, n < k → v.getLsbD n = false) : v.toNat % 2 ^ k = 0 := by
  apply Nat.eq_of_testBit_eq
  intro n
  rw [Nat.testBit_mod_two_pow, Nat.zero_testBit]
  by_cases hn : n < k
  · rw [show v.toNat.testBit n = false from h n hn, Bool.and_false]
  · rw [decide_eq_false hn, Bool.false_and]

theorem toNat_and_lt_of_mask {v m : Word} {k : Nat} (hm : m.toNat < k) : (v &&& m).toNat < k := by
  rw [BitVec.toNat_and]
  exact lt_of_le_of_lt Nat.and_le_right hm

/-! ### The records -/

/-- A canonical page-aligned virtual address, and a physical start aligned to the page and below 2^52. -/
structure WalkRecord.Canonical (r : WalkRecord) : Prop where
  sign : ∀ n, 48 ≤ n → n < 64 → r.va.getLsbD n = r.va.getLsbD 47
  below : r.pa.toNat < 2 ^ 52
  vaAligned : r.va.toNat % (frameSize * pageFrames r.size) = 0
  paAligned : r.pa.toNat % (frameSize * pageFrames r.size) = 0

theorem canonical_kib4 (i4 i3 i2 i1 : Nat) (e : Word) :
    ({ va := virtualAddress i4 i3 i2 i1, pa := e &&& addrMask, size := .kib4 } : WalkRecord).Canonical :=
  ⟨fun _ => getLsbD_virtualAddress_sign i4 i3 i2 i1, toNat_and_lt_of_mask (by decide),
    toNat_mod_of_low_clear (k := 12) fun _ h => getLsbD_virtualAddress_low i4 i3 i2 (.inl h),
    toNat_mod_of_and_eq_zero (m := 0xFFF) 12 rfl (and_mask_and_eq_zero e (by decide))⟩

theorem canonical_mib2 (i4 i3 i2 : Nat) (e : Word) :
    ({ va := virtualAddress i4 i3 i2 0, pa := start2M e, size := .mib2 } : WalkRecord).Canonical := by
  rw [start2M_eq]
  exact ⟨fun _ => getLsbD_virtualAddress_sign i4 i3 i2 0, toNat_and_lt_of_mask (by decide),
    toNat_mod_of_low_clear (k := 21) fun _ h => getLsbD_virtualAddress_low i4 i3 i2 (.inr ⟨rfl, h⟩),
    toNat_mod_of_and_eq_zero (m := 0x1FFFFF) 21 rfl (and_mask_and_eq_zero e (by decide))⟩

/-- An iteration yields records of the two kinds of R210 only. -/
theorem advanceOnce_record_canonical {l l' : Level} {p p' : WalkPos} {s s' : State} {r : WalkRecord}
    (h : advanceOnce l p s = .record r l' p' s') : r.Canonical := by
  unfold advanceOnce at h
  split at h
  · cases l <;> cases h
  · split at h
    · cases h
    next e _ _ =>
      unfold visitEntry at h
      split at h
      · cases h
      · split at h
        · cases h
        · cases l with
          | l1 =>
            cases h
            exact canonical_kib4 _ _ _ _ e
          | l2 =>
            simp only [followEntry] at h
            split at h <;> cases h
            exact canonical_mib2 _ _ _ e
          | l3 =>
            simp only [followEntry] at h
            split at h <;> cases h
          | l4 => cases h

theorem advance_record_canonical {n : Nat} {l l' : Level} {p p' : WalkPos} {s s' : State} {r : WalkRecord}
    (h : advance n l p s = .record r l' p' s') : r.Canonical := by
  induction n generalizing l p s with
  | zero => cases h
  | succ n ih =>
    unfold advance at h
    split at h <;> rename_i e
    · exact ih h
    · cases h
      exact advanceOnce_record_canonical e
    all_goals cases h

/-- WALK_NEXT sets RES3 only where it answers a record (R213). -/
theorem exec_walkNext_record {s t : State} (h : exec .walkNext s = .next t) (h3 : t.res.v3 ≠ 0) :
    ∃ r : WalkRecord, r.Canonical ∧ t.res = r.answer := by
  rcases execWalkNext_cases h with
    ⟨st, rfl, _⟩ | ⟨_, ⟨p, _, rfl⟩ | ⟨l, p, _, ⟨f, s1, _, rfl⟩ | ⟨s1, _, rfl⟩ | ⟨r, l', p', s1, e, rfl⟩⟩⟩
  · exact absurd rfl h3
  · exact absurd rfl h3
  · exact absurd rfl h3
  · exact absurd rfl h3
  · exact ⟨r, advance_record_canonical e, rfl⟩

/-- Settles O28: the record WALK_NEXT answers is canonical. -/
theorem recordsAreCanonical : Obligations.RecordsAreCanonical := by
  intro s t h h3
  obtain ⟨⟨va, pa, size⟩, hr, hres⟩ := exec_walkNext_record h h3
  rw [hres]
  refine ⟨hr.sign, hr.below, ?_⟩
  cases size with
  | kib4 => exact .inl ⟨rfl, hr.vaAligned, hr.paAligned⟩
  | mib2 => exact .inr ⟨rfl, hr.vaAligned, hr.paAligned⟩

end Sys2Proof.Machine
end

section
/-! The bounds of 43_page_walker.md R217 (O29): on the enumeration, table by table, and on a walk whatever the port
answers, by the L1 entries that a position still has before it. -/

namespace Sys2Proof.Machine

/-! ### The enumeration -/

theorem andThen_records_length (a b : Enumeration) :
    (a.andThen b).records.length ≤ a.records.length + b.records.length := by
  obtain ⟨ra, _ | f⟩ := a
  · exact (List.length_append).le
  · exact Nat.le_add_right _ _

theorem gather_records_length {f : Nat → Enumeration} {c : Nat} (hf : ∀ i, (f i).records.length ≤ c) (is : List Nat) :
    (gather f is).records.length ≤ is.length * c := by
  induction is with
  | nil => exact Nat.zero_le _
  | cons i is ih =>
    calc (gather f (i :: is)).records.length ≤ (f i).records.length + (gather f is).records.length :=
          andThen_records_length _ _
      _ ≤ c + is.length * c := Nat.add_le_add (hf i) ih
      _ = (i :: is).length * c := by rw [List.length_cons, Nat.add_mul, Nat.one_mul, Nat.add_comm]

/-- A table has 512 entries (R201). -/
theorem table_records_length {f : Nat → Enumeration} {c : Nat} (hf : ∀ i, (f i).records.length ≤ c) :
    (gather f (indicesFrom 0)).records.length ≤ 512 * c := by
  have hlength : (indicesFrom 0).length = 512 := List.length_range'
  exact hlength ▸ gather_records_length hf (indicesFrom 0)

section
variable (v : TableView) (T : Word)

theorem mapL1_records_length (i4 i3 i2 i1 : Nat) : (v.mapL1 i4 i3 i2 T i1).records.length ≤ 1 := by
  unfold TableView.mapL1
  dsimp only
  split
  · exact Nat.zero_le _
  · split
    · exact Nat.zero_le _
    · exact le_refl _

theorem mapL2_records_length (i4 i3 i2 : Nat) : (v.mapL2 i4 i3 T i2).records.length ≤ 512 := by
  unfold TableView.mapL2
  dsimp only
  split
  · exact Nat.zero_le _
  · split
    · exact Nat.zero_le _
    · split
      · exact Nat.le_add_left 1 511
      · exact table_records_length (mapL1_records_length v _ i4 i3 i2)

theorem mapL3_records_length (i4 i3 : Nat) : (v.mapL3 i4 T i3).records.length ≤ 512 ^ 2 := by
  unfold TableView.mapL3
  dsimp only
  split
  · exact Nat.zero_le _
  · split
    · exact Nat.zero_le _
    · split
      · exact Nat.zero_le _
      · exact table_records_length (mapL2_records_length v _ i4 i3)

theorem mapL4_records_length (i4 : Nat) : (v.mapL4 T i4).records.length ≤ 512 ^ 3 := by
  unfold TableView.mapL4
  dsimp only
  split
  · exact Nat.zero_le _
  · split
    · exact Nat.zero_le _
    · exact table_records_length (mapL3_records_length v _ i4)

end

theorem mappings_records_length (v : TableView) (cr3 : Word) : (v.mappings cr3).records.length ≤ 512 ^ 4 :=
  table_records_length (mapL4_records_length v _)

theorem pageFrames_le (sz : PageSize) : pageFrames sz ≤ 512 := by
  cases sz <;> decide

theorem mappedFrames_length (rs : List WalkRecord) : (mappedFrames rs).length ≤ 512 * rs.length := by
  induction rs with
  | nil => exact le_refl _
  | cons r rs ih =>
    have hr : r.frames.length ≤ 512 := by
      rw [WalkRecord.frames, List.length_range']
      exact pageFrames_le r.size
    rw [mappedFrames_cons, List.length_append, List.length_cons]
    omega

/-! ### The L1 entries ahead of a position -/

/-- The L1 entries below one entry of a level. -/
def entryRoom : Level → Nat
  | .l1 => 1
  | .l2 => 512
  | .l3 => 512 ^ 2
  | .l4 => 512 ^ 3

/-- The L1 entries below the rest of a table, from an index on. -/
def restRoom (l : Level) (i : Fin 513) : Nat := (512 - i.val) * entryRoom l

/-- The L1 entries ahead of a position, all tables taken as full. -/
def walkRoom (l : Level) (p : WalkPos) : Nat :=
  match l with
  | .l4 => restRoom .l4 p.idx4
  | .l3 => restRoom .l3 p.idx3 + restRoom .l4 (idxSucc p.idx4)
  | .l2 => restRoom .l2 p.idx2 + (restRoom .l3 (idxSucc p.idx3) + restRoom .l4 (idxSucc p.idx4))
  | .l1 => restRoom .l1 p.idx1
      + (restRoom .l2 (idxSucc p.idx2) + (restRoom .l3 (idxSucc p.idx3) + restRoom .l4 (idxSucc p.idx4)))

theorem restRoom_succ (l : Level) {i : Fin 513} (h : i.val < 512) :
    restRoom l (idxSucc i) + entryRoom l = restRoom l i := by
  rw [restRoom, restRoom, idxSucc_val (by omega), ← Nat.succ_mul]
  congr 1
  omega

theorem restRoom_end (l : Level) {i : Fin 513} (h : i.val = 512) : restRoom l i = 0 := by
  rw [restRoom, h, Nat.sub_self, Nat.zero_mul]

/-- A whole table has the room of the entry that leads to it. -/
theorem restRoom_zero {l : Level} (h : l ≠ .l1) : restRoom (belowOf l) 0 = entryRoom l := by
  revert h
  cases l <;> decide

theorem walkRoom_bump {l : Level} {p : WalkPos} (h : (p.idx l).val < 512) :
    walkRoom l (p.bump l) + entryRoom l = walkRoom l p := by
  have hrest := restRoom_succ l h
  cases l <;> simp only [walkRoom, WalkPos.bump, WalkPos.idx] at * <;> omega

theorem walkRoom_pop {l l' : Level} {p : WalkPos} (h : (p.idx l).val = 512) (hl : levelNumber l' = levelNumber l + 1) :
    walkRoom l' (p.bump l') = walkRoom l p := by
  have hrest := restRoom_end l h
  cases l <;> cases l' <;> cases hl <;> simp only [walkRoom, WalkPos.bump, WalkPos.idx] at * <;> omega

theorem walkRoom_enter {l : Level} {p : WalkPos} (hl : l ≠ .l1) (h : (p.idx l).val < 512) (a : Word) :
    walkRoom (belowOf l) (p.enter (belowOf l) a) = walkRoom l p := by
  have hrest := restRoom_succ l h
  have hzero := restRoom_zero hl
  cases l with
  | l1 => exact absurd rfl hl
  | l2 | l3 | l4 => simp only [walkRoom, WalkPos.enter, WalkPos.idx, belowOf] at *; omega

theorem entryRoom_pos (l : Level) : 0 < entryRoom l := by
  cases l <;> decide

theorem walkRoom_init (cr3 : Word) : walkRoom .l4 (.init cr3) = 512 ^ 4 := by
  simp [walkRoom, restRoom, entryRoom, WalkPos.init, WalkPos.zero]

/-! ### A walk uses up the room -/

/-- An iteration never gains room, and a record takes some. -/
def WalkIter.TakesRoom (l : Level) (p : WalkPos) (it : WalkIter) : Prop :=
  match it with
  | .again l' p' _ => walkRoom l' p' ≤ walkRoom l p
  | .record _ l' p' _ => walkRoom l' p' < walkRoom l p
  | .exhausted _ => True
  | .fatal _ _ => True

section
variable {l : Level} {p : WalkPos}

theorem popTable_takesRoom (s : State) (h : (p.idx l).val = 512) : (popTable l p s).TakesRoom l p := by
  cases l with
  | l1 | l2 | l3 => exact (walkRoom_pop h rfl).le
  | l4 => trivial

theorem yieldRecord_takesRoom (r : WalkRecord) (s : State) (h : (p.idx l).val < 512) :
    (yieldRecord r l p s).TakesRoom l p := by
  have hroom := walkRoom_bump h
  have hpos := entryRoom_pos l
  show walkRoom l (p.bump l) < walkRoom l p
  omega

theorem enter_takesRoom (a : Word) (s : State) (hl : l ≠ .l1) (h : (p.idx l).val < 512) :
    (WalkIter.again (belowOf l) (p.enter (belowOf l) a) s).TakesRoom l p :=
  (walkRoom_enter hl h a).le

theorem followEntry_takesRoom (e : Word) (s : State) (h : (p.idx l).val < 512) :
    (followEntry l p e s).TakesRoom l p := by
  cases l with
  | l1 => exact yieldRecord_takesRoom _ s h
  | l2 =>
    simp only [followEntry]
    split
    · exact yieldRecord_takesRoom _ s h
    · exact enter_takesRoom (e &&& addrMask) s nofun h
  | l3 =>
    simp only [followEntry]
    split
    · trivial
    · exact enter_takesRoom (e &&& addrMask) s nofun h
  | l4 => exact enter_takesRoom (e &&& addrMask) s nofun h

theorem advanceOnce_takesRoom (s : State) : (advanceOnce l p s).TakesRoom l p := by
  unfold advanceOnce
  split
  next hend => exact popTable_takesRoom s hend
  next hin =>
    have h : (p.idx l).val < 512 := by omega
    split
    · trivial
    next e s1 _ =>
      unfold visitEntry
      split
      · exact (Nat.le_add_right _ _).trans (walkRoom_bump h).le
      · split
        · trivial
        · exact followEntry_takesRoom e s1 h

end

theorem advance_record_room {n : Nat} {l l' : Level} {p p' : WalkPos} {s s' : State} {r : WalkRecord}
    (h : advance n l p s = .record r l' p' s') : walkRoom l' p' < walkRoom l p := by
  induction n generalizing l p s with
  | zero => cases h
  | succ n ih =>
    have hroom := advanceOnce_takesRoom (l := l) (p := p) s
    unfold advance at h
    split at h <;> rename_i e <;> rw [e] at hroom
    · exact lt_of_lt_of_le (ih h) hroom
    · cases h
      exact hroom
    all_goals cases h

/-! ### The counts of a walk -/

/-- From the counts `t` to the counts `t'` at most `n` records were added, of at most 512 frames each, and the frames
counted apart are among those counted. -/
structure Tally.Grows (n : Nat) (t t' : Tally) : Prop where
  records : t'.records ≤ t.records + n
  total : t'.total ≤ t.total + 512 * n
  apart : t'.hits + t'.outOfRange + t.total ≤ t.hits + t.outOfRange + t'.total

theorem Tally.Grows.refl (n : Nat) (t : Tally) : t.Grows n t := ⟨Nat.le_add_right _ _, Nat.le_add_right _ _, le_refl _⟩

/-- A visit counts one frame occurrence, and counts it apart at most once. -/
def VisitCounts (visit : Nat → Tally → State → Access Tally) : Prop :=
  ∀ f t s t' s', visit f t s = .ok t' s' →
    t'.records = t.records ∧ t'.total = t.total + 1 ∧ t'.hits + t'.outOfRange ≤ t.hits + t.outOfRange + 1

theorem markFrame_counts : VisitCounts markFrame := by
  intro f t s t' s' h
  unfold markFrame at h
  split at h
  · cases h
    exact ⟨rfl, rfl, le_refl _⟩
  · split at h
    · cases h
    · split at h
      · cases h
        exact ⟨rfl, rfl, Nat.le_succ _⟩
      · split at h <;> cases h
        exact ⟨rfl, rfl, by simp only [Tally.seen]; omega⟩

theorem checkFrame_counts : VisitCounts checkFrame := by
  intro f t s t' s' h
  unfold checkFrame at h
  split at h
  · cases h
    exact ⟨rfl, rfl, le_refl _⟩
  · split at h <;> cases h
    split
    · exact ⟨rfl, rfl, Nat.le_succ _⟩
    · exact ⟨rfl, rfl, by simp only [Tally.seen]; omega⟩

section
variable {visit : Nat → Tally → State → Access Tally} (hv : VisitCounts visit)
include hv

theorem visitFrames_counts {n f : Nat} {t t' : Tally} {s s' : State} (h : visitFrames visit n f t s = .ok t' s') :
    t'.records = t.records ∧ t'.total = t.total + n ∧ t'.hits + t'.outOfRange ≤ t.hits + t.outOfRange + n := by
  induction n generalizing f t s with
  | zero =>
    cases h
    exact ⟨rfl, rfl, le_refl _⟩
  | succ n ih =>
    unfold visitFrames at h
    split at h
    · cases h
    next e =>
      obtain ⟨hr1, ht1, ha1⟩ := hv _ _ _ _ _ e
      obtain ⟨hr2, ht2, ha2⟩ := ih h
      exact ⟨hr2.trans hr1, by omega, by omega⟩

theorem walkAll_grows {n : Nat} {l : Level} {p : WalkPos} {t t' : Tally} {s s' : State}
    (h : walkAll visit n l p t s = .done t' s') : t.Grows (walkRoom l p) t' := by
  induction n generalizing l p t s with
  | zero => cases h
  | succ n ih =>
    unfold walkAll at h
    split at h
    · cases h
    · cases h
    · cases h
      exact .refl _ _
    next r l' p' s1 hadv =>
      have hroom := advance_record_room hadv
      have hsize := pageFrames_le r.size
      split at h
      · cases h
      next t2 s2 hvisit =>
        obtain ⟨hr, ht, ha⟩ := visitFrames_counts hv hvisit
        obtain ⟨hr2, ht2, ha2⟩ := ih h
        dsimp only at hr ht ha
        exact ⟨by omega, by omega, by omega⟩

end

/-! ### WALK_MARK and WALK_CHECK that end with OK -/

/-- The answer of WALK_MARK and WALK_CHECK (R215, R216). -/
def Tally.answer (y : Tally) : Quad :=
  { v0 := BitVec.ofNat 64 y.hits, v1 := BitVec.ofNat 64 y.total, v2 := BitVec.ofNat 64 y.outOfRange,
    v3 := BitVec.ofNat 64 y.records }

/-- A command that ends with OK has passed its gate. -/
theorem gate_of_exec_ok {i : Instr} {s t : State} (h : exec i s = .next t) (ht : t.status = .ok) : gate i s = none := by
  rcases gate_cases i s with ⟨hg, _⟩ | ⟨hg, _⟩ | ⟨hg, _⟩
  · rw [exec_of_gate hg] at h
    cases h
    cases ht
  · exact hg
  · rw [exec_of_gate hg] at h
    cases h
    cases ht

/-- A walk of a CR3 value that ends with OK has passed the checks of R206 and has come to the end of the hierarchy. -/
theorem walkWhole_ok {visit : Nat → Tally → State → Access Tally} {s t : State} (h : walkWhole visit s = .next t)
    (ht : t.status = .ok) :
    s.walkOpen ∧ ∃ y s2, walkAll visit walkFuel .l4 (.init s.args.v0) .zero s.atRoot = .done y s2
      ∧ t = finish y.answer s2 := by
  cases hp : s.physBitsValid with
  | false =>
    rw [walkWhole_badConfig visit hp] at h
    cases h
    cases ht
  | true =>
    by_cases hc : s.args.v0 &&& physMask s.physBits = 0
    · rw [walkWhole_open visit ⟨hp, hc⟩] at h
      refine ⟨⟨hp, hc⟩, ?_⟩
      cases e : walkAll visit walkFuel .l4 (.init s.args.v0) .zero s.atRoot with
      | unfinished =>
        rw [e] at h
        cases h
      | fatal f s2 =>
        rw [e] at h
        cases h
        cases ht
      | done y s2 =>
        rw [e] at h
        cases h
        exact ⟨y, s2, rfl, rfl⟩
    · rw [walkWhole_reserved visit hp hc] at h
      cases h
      cases ht

/-- The counts of a whole walk that ended with OK fit their bounds, so they are answered as they are. -/
theorem walkWhole_bounded {visit : Nat → Tally → State → Access Tally} (hv : VisitCounts visit) {s t : State}
    (h : walkWhole visit s = .next t) (ht : t.status = .ok) :
    t.res.v3.toNat ≤ 512 ^ 4 ∧ t.res.v1.toNat ≤ 2 ^ 45 ∧ t.res.v0.toNat + t.res.v2.toNat ≤ t.res.v1.toNat := by
  obtain ⟨_, y, s2, hrun, rfl⟩ := walkWhole_ok h ht
  obtain ⟨hrecords, htotal, hapart⟩ := walkAll_grows hv hrun
  rw [walkRoom_init] at hrecords htotal
  simp only [Tally.zero] at hrecords htotal hapart
  simp only [finish_res, Tally.answer, BitVec.toNat_ofNat]
  rw [Nat.mod_eq_of_lt (by omega : y.hits < 2 ^ 64), Nat.mod_eq_of_lt (by omega : y.total < 2 ^ 64),
    Nat.mod_eq_of_lt (by omega : y.outOfRange < 2 ^ 64), Nat.mod_eq_of_lt (by omega : y.records < 2 ^ 64)]
  omega

/-- Settles O29: table by table, and by the room of the root. -/
theorem walkIsBounded : Obligations.WalkIsBounded := by
  refine ⟨fun v cr3 => ?_, fun i s t hi h ht => ?_⟩
  · have hrecords := mappings_records_length v cr3
    have hframes := mappedFrames_length (v.mappings cr3).records
    exact ⟨hrecords, by omega⟩
  · have hg := gate_of_exec_ok h ht
    rcases hi with rfl | rfl
    · rw [exec_walkMark hg] at h
      exact walkWhole_bounded markFrame_counts h ht
    · rw [exec_walkCheck hg] at h
      exact walkWhole_bounded checkFrame_counts h ht

end Sys2Proof.Machine
end

section
/-! WALK_CHECK (43_page_walker.md R214, R216; O30) and what it says of the bitmap (R218; O32, O33). The port is quiet,
so the walk leaves the state as it is, and `State.checked` says what it counts: the mapped frame occurrences, list by
list. -/

namespace Sys2Proof.Machine

/-! ### A visit -/

/-- Whether WALK_CHECK counts frame f as a discrepancy (R216). -/
def State.discrepant (s : State) (f : Nat) : Bool := decide (f < s.bitmap.frameCount.toNat) && !s.frameBit f

/-- The counts after WALK_CHECK's visits of the frame occurrences `F`. -/
def State.checked (s : State) (F : List Nat) (t : Tally) : Tally :=
  { hits := t.hits + (F.filter s.discrepant).length
    total := t.total + F.length
    outOfRange := t.outOfRange + (F.filter (fun f => decide (s.bitmap.frameCount.toNat ≤ f))).length
    records := t.records }

theorem checked_nil (s : State) (t : Tally) : s.checked [] t = t := rfl

theorem checked_append (s : State) (F G : List Nat) (t : Tally) :
    s.checked (F ++ G) t = s.checked G (s.checked F t) := by
  simp only [State.checked, List.filter_append, List.length_append, Nat.add_assoc]

theorem checkFrame_quiet {s : State} (hq : s.quiet) (f : Nat) (t : Tally) :
    checkFrame f t s = .ok (s.checked [f] t) s := by
  unfold checkFrame
  rw [readByte_quiet hq]
  dsimp only
  split
  next hle =>
    have hout : s.discrepant f = false := by rw [State.discrepant, decide_eq_false (by omega), Bool.false_and]
    simp [State.checked, Tally.seen, hout, hle]
  next hlt =>
    have hin : s.discrepant f = !s.frameBit f := by rw [State.discrepant, decide_eq_true (by omega), Bool.true_and]
    have hbit : (s.mem.read (s.frameByteAddr f)).getLsbD (f % 8) = s.frameBit f := rfl
    rw [hbit]
    cases hb : s.frameBit f <;> simp [State.checked, Tally.seen, hin, hb, hlt]

theorem visitFrames_checkFrame {s : State} (hq : s.quiet) (n f : Nat) (t : Tally) :
    visitFrames checkFrame n f t s = .ok (s.checked (List.range' f n) t) s := by
  induction n generalizing f t with
  | zero => rfl
  | succ n ih =>
    rw [visitFrames, checkFrame_quiet hq]
    dsimp only
    rw [ih, ← checked_append]
    rfl

/-! ### The walk -/

/-- How WALK_CHECK's walk ends: every mapping ahead counted, at the end of the hierarchy or at the fault that stops it,
and nothing but the walker moved. -/
structure WalkChecked (s : State) (t : Tally) (ahead : Enumeration) (run : WalkRun) : Prop where
  complete : ahead.stop = none → ∃ p, run =
    .done { s.checked (mappedFrames ahead.records) t with records := t.records + ahead.records.length }
      { s with walker := .done p }
  stopped : ∀ f, ahead.stop = some f → ∃ l p, run = .fatal f { s with walker := .active l p }
    ∧ f.info1 = entryAt (p.tbl l) (p.idx l).val

/-- The walker is no part of what a walk reads. -/
theorem State.Reads.setWalker {s : State} {v : TableView} {T : Level → Word → Prop} (h : s.Reads v T) (w : Walker) :
    State.Reads { s with walker := w } v T := ⟨h.quiet, h.physBits, h.nxe, h.entry⟩

/-- The record at the position and the mappings past it, counted one after the other. -/
theorem checked_record (s : State) (r : WalkRecord) (rs : List WalkRecord) (t : Tally) :
    { s.checked (mappedFrames rs) (s.checked r.frames { t with records := t.records + 1 }) with
        records := t.records + 1 + rs.length }
      = { s.checked (mappedFrames (r :: rs)) t with records := t.records + (r :: rs).length } := by
  rw [← checked_append, ← mappedFrames_cons, List.length_cons, Nat.add_comm rs.length 1, ← Nat.add_assoc]
  rfl

/-- WALK_CHECK's walk from a position counts the mappings ahead of it (R216). -/
theorem walkAll_checked {s : State} {v : TableView} {T : Level → Word → Prop} {t : Tally} {l : Level} {p : WalkPos}
    {n : Nat} (hs : s.Reads v T) (hc : v.Closed T) (hp : p.onPath l) (hw : p.within l T) (hn : walkCost l p < n) :
    WalkChecked s t (v.ahead l p) (walkAll checkFrame n l p t s) := by
  induction n generalizing s l p t with
  | zero => omega
  | succ n ih =>
    have hmatch := advance_matches walkFuel hs hc hp hw
    rw [walkAll]
    cases e : advance walkFuel l p s with
    | unfinished => exact absurd e (advance_finishes s (walkCost_lt_fuel l p))
    | exhausted s1 =>
      rw [e] at hmatch
      obtain ⟨hahead, q, rfl⟩ := hmatch
      rw [hahead]
      exact ⟨fun _ => ⟨q, rfl⟩, nofun⟩
    | fatal f s1 =>
      rw [e] at hmatch
      obtain ⟨hahead, l', p', rfl, hinfo⟩ := hmatch
      rw [hahead]
      refine ⟨nofun, fun g hg => ?_⟩
      cases hg
      exact ⟨l', p', rfl, hinfo⟩
    | record r l' p' s1 =>
      rw [e] at hmatch
      obtain ⟨rfl, hahead, hw', hp'⟩ := hmatch
      have hcost := advance_cost e
      have hs' := hs.setWalker (.active l' p')
      obtain ⟨hcomplete, hstopped⟩ := ih (t := s.checked r.frames { t with records := t.records + 1 }) hs' hp' hw'
        (by omega)
      dsimp only
      rw [visitFrames_checkFrame hs'.quiet, hahead]
      refine ⟨fun hstop => ?_, hstopped⟩
      obtain ⟨q, hq⟩ := hcomplete hstop
      exact ⟨q, hq.trans (congrArg (WalkRun.done · _) (checked_record s r _ t))⟩

/-- WALK_CHECK's walk of a CR3 value counts its mappings, read from a memory that holds the hierarchy `v`. -/
theorem walkAll_checks_mappings {s : State} {v : TableView} {T : Level → Word → Prop} (hs : s.Reads v T)
    (hc : v.Closed T) (hroot : T .l4 (rootTable s.args.v0)) :
    WalkChecked s.atRoot .zero (v.mappings s.args.v0)
      (walkAll checkFrame walkFuel .l4 (.init s.args.v0) .zero s.atRoot) := by
  have hin : (WalkPos.init s.args.v0).within .l4 T := fun l' hl => by
    cases l' <;> simp [levelNumber] at hl
    exact hroot
  exact walkAll_checked (hs.setWalker _) hc (onPath_init _) hin (walkCost_lt_fuel .l4 _)

/-- The answer of WALK_CHECK where the records are `rs` (R216). -/
def State.checkAnswer (s : State) (rs : List WalkRecord) : Quad :=
  { v0 := BitVec.ofNat 64 ((mappedFrames rs).filter s.discrepant).length
    v1 := BitVec.ofNat 64 (mappedFrames rs).length
    v2 := BitVec.ofNat 64 ((mappedFrames rs).filter (fun f => decide (s.bitmap.frameCount.toNat ≤ f))).length
    v3 := BitVec.ofNat 64 rs.length }

section
variable {s : State} {v : TableView} {T : Level → Word → Prop} (hg : gate .walkCheck s = none) (ho : s.walkOpen)
  (hs : s.Reads v T) (hc : v.Closed T) (hroot : T .l4 (rootTable s.args.v0))
include hg ho hs hc hroot

/-- WALK_CHECK of a hierarchy without a fault. -/
theorem exec_walkCheck_complete (hstop : (v.mappings s.args.v0).stop = none) :
    ∃ p, exec .walkCheck s =
      .next (finish (s.checkAnswer (v.mappings s.args.v0).records) { s with walker := .done p }) := by
  obtain ⟨p, hrun⟩ := (walkAll_checks_mappings hs hc hroot).complete hstop
  refine ⟨p, ?_⟩
  rw [exec_walkCheck hg, walkWhole_open _ ho, hrun]
  have hanswer : Tally.answer { s.checked (mappedFrames (v.mappings s.args.v0).records) .zero with
      records := 0 + (v.mappings s.args.v0).records.length } = s.checkAnswer (v.mappings s.args.v0).records := by
    simp only [Tally.answer, State.checked, State.checkAnswer, Tally.zero, Nat.zero_add]
  exact congrArg (fun q => Host.Outcome.next (finish q { s with walker := .done p })) hanswer

/-- WALK_CHECK of a hierarchy that a fault stops. -/
theorem exec_walkCheck_stopped {f : FatalFault} (hstop : (v.mappings s.args.v0).stop = some f) :
    ∃ l p, exec .walkCheck s = .next (raiseFatal f { s with walker := .active l p })
      ∧ f.info1 = entryAt (p.tbl l) (p.idx l).val := by
  obtain ⟨l, p, hrun, hinfo⟩ := (walkAll_checks_mappings hs hc hroot).stopped f hstop
  refine ⟨l, p, ?_, hinfo⟩
  rw [exec_walkCheck hg, walkWhole_open _ ho, hrun]
  rfl

/-- A WALK_CHECK that ends with OK has met no fault. -/
theorem exec_walkCheck_ok {t : State} (h : exec .walkCheck s = .next t) (ht : t.status = .ok) :
    (v.mappings s.args.v0).stop = none := by
  cases hstop : (v.mappings s.args.v0).stop with
  | none => rfl
  | some f =>
    obtain ⟨l, p, he, _⟩ := exec_walkCheck_stopped hg ho hs hc hroot hstop
    rw [he] at h
    cases h
    cases ht

end

/-- Settles O30, by the walk over the mappings ahead of the root. -/
theorem walkCheckCounts : Obligations.WalkCheckCounts := by
  refine ⟨decode_encode .walkCheck, fun s hh hl => ?_⟩
  have hg : gate .walkCheck s = none := gate_none hh (permits_query (.inl rfl) hl)
  refine ⟨fun hp => ?_, fun hp hr => ?_, fun hp hr hq rs hrs => ⟨fun hstop => ?_, fun f hstop => ?_⟩⟩
  · rw [exec_walkCheck hg]
    exact walkWhole_badConfig _ (physBitsValid_eq_false hp)
  · rw [exec_walkCheck hg]
    exact walkWhole_reserved _ ((physBitsValid_iff s).mpr hp)
      (mt (and_physMask_eq_zero_iff hp.1 s.args.v0).mp (not_not.mpr hr))
  · subst hrs
    exact exec_walkCheck_complete hg (walkOpen_of hp hr) (reads_tables hq) (closed_all _) trivial hstop
  · exact exec_walkCheck_stopped hg (walkOpen_of hp hr) (reads_tables hq) (closed_all _) trivial hstop

/-! ### What the counts say of the bitmap -/

/-- No discrepancy among frame occurrences: every tracked one is marked. -/
theorem filter_discrepant_eq_nil (s : State) (F : List Nat) :
    F.filter s.discrepant = [] ↔ ∀ f, f ∈ F → f < s.bitmap.frameCount.toNat → s.frameBit f = true := by
  simp [List.filter_eq_nil_iff, State.discrepant]

/-- RES0 holds the count of discrepancies whole (R217). -/
theorem checkAnswer_v0_eq_zero (s : State) (v : TableView) (cr3 : Word) :
    (s.checkAnswer (v.mappings cr3).records).v0 = 0 ↔
      (mappedFrames (v.mappings cr3).records).filter s.discrepant = [] := by
  have hrecords := mappings_records_length v cr3
  have hframes := mappedFrames_length (v.mappings cr3).records
  have hfilter := List.length_filter_le s.discrepant (mappedFrames (v.mappings cr3).records)
  rw [← List.length_eq_zero_iff]
  show BitVec.ofNat 64 _ = BitVec.ofNat 64 0 ↔ _
  rw [← BitVec.toNat_inj, BitVec.toNat_ofNat, BitVec.toNat_ofNat, Nat.zero_mod, Nat.mod_eq_of_lt (by omega)]

/-- Settles O33: RES0 counts the mapped tracked frames whose bit is 0. -/
theorem checkZeroMeansCovered : Obligations.CheckZeroMeansCovered := by
  intro s t hq h ht
  have hg := gate_of_exec_ok h ht
  have ho := (walkWhole_ok ((exec_walkCheck hg).symm.trans h) ht).1
  have hs := reads_tables hq
  have hstop := exec_walkCheck_ok hg ho hs (closed_all _) trivial h ht
  obtain ⟨p, he⟩ := exec_walkCheck_complete hg ho hs (closed_all _) trivial hstop
  rw [he] at h
  cases h
  exact (checkAnswer_v0_eq_zero s s.tables s.args.v0).trans (filter_discrepant_eq_nil s _)

/-! ### WALK_CHECK after WALK_MARK -/

/-- A WALK_MARK that ends with OK has come to the end of the hierarchy, every mapped tracked frame marked (R215). -/
theorem exec_walkMark_ok {s t : State} (hs : s.Inv) (hq : s.quiet) (ha : s.tablesApart s.args.v0)
    (h : exec .walkMark s = .next t) (ht : t.status = .ok) :
    s.walkOpen ∧ (s.tables.mappings s.args.v0).stop = none ∧ ∃ y s2, t = finish y.answer s2
      ∧ Marked s (mappedFrames (s.tables.mappings s.args.v0).records) y s2
      ∧ y.records = (s.tables.mappings s.args.v0).records.length := by
  have hg := gate_of_exec_ok h ht
  rw [exec_walkMark hg] at h
  obtain ⟨ho, y, s2, hrun, rfl⟩ := walkWhole_ok h ht
  obtain ⟨y', s2', hwalk⟩ := walkAll_marks_mappings hs hq ha
  rw [hrun] at hwalk
  cases hstop : (s.tables.mappings s.args.v0).stop with
  | none =>
    obtain ⟨hdone, _⟩ := hwalk.complete hstop
    cases hdone
    exact ⟨ho, rfl, y, s2, rfl, hwalk.marked, hwalk.records.trans (Nat.zero_add _)⟩
  | some f => cases (hwalk.stopped f hstop).1

/-- The marks cover what WALK_CHECK looks for. -/
theorem Marked.no_discrepancy {s0 s : State} {F : List Nat} {t : Tally} (h : Marked s0 F t s)
    (hcov : s0.bitmap.frameCount.toNat ≤ 8 * s0.bitmap.bytes.toNat) : F.filter s.discrepant = [] := by
  rw [filter_discrepant_eq_nil]
  intro f hF hf
  rw [h.frameCount_eq] at hf
  exact (h.bit f (by omega)).mpr (.inr ⟨hf, hF⟩)

/-- The answer of WALK_CHECK after the marks: no discrepancy, the other counts those of the marks (R218). -/
theorem Marked.checkAnswer_eq {s0 s : State} {rs : List WalkRecord} {y : Tally} (h : Marked s0 (mappedFrames rs) y s)
    (hcov : s0.bitmap.frameCount.toNat ≤ 8 * s0.bitmap.bytes.toNat) (hrecords : y.records = rs.length) :
    s.checkAnswer rs = { y.answer with v0 := 0 } := by
  rw [State.checkAnswer, Tally.answer, h.no_discrepancy hcov, h.total, h.outOfRange, hrecords, h.frameCount_eq]
  rfl

/-- WALK_CHECK may follow a WALK_MARK that passed its gate (10_state.md R47). -/
theorem gate_walkCheck_of_walkMark {s t : State} (hg : gate .walkMark s = none) (hh : t.halted = s.halted)
    (hl : t.lifecycle = s.lifecycle) : gate .walkCheck t = none := by
  obtain ⟨hp, hhalted⟩ := gate_passed hg
  have huse := (permits_use_iff s (.inl rfl)).mp hp
  refine gate_none (hh.trans (hhalted.resolve_right nofun)) (permits_query (.inl rfl) ?_)
  rw [hl]
  rcases huse with e | e <;> rw [e] <;> nofun

/-- Settles O32: the marks leave the tables as they were, so WALK_CHECK walks the mappings that WALK_MARK marked. -/
theorem checkAfterMark : Obligations.CheckAfterMark := by
  intro s t hs hq ha h ht
  obtain ⟨ho, hstop, y, s2, rfl, hm, hrecords⟩ := exec_walkMark_ok hs hq ha h ht
  obtain ⟨T, ⟨hroot, hclosed⟩, hapart⟩ := ha
  have hcovers := hs.bitmapCovers
  have hreads : (finish y.answer s2).Reads s.tables T := { hm.reads hq hcovers hapart with }
  have hframe := hm.frame
  have hargs : (finish y.answer s2).args = s.args := by rw [finish_args, hframe]
  have hgate : gate .walkCheck (finish y.answer s2) = none :=
    gate_walkCheck_of_walkMark (gate_of_exec_ok h ht) (by rw [finish_halted, hframe]) (by rw [finish_lifecycle, hframe])
  have hopen : (finish y.answer s2).walkOpen := by
    rw [hframe]
    exact ho
  obtain ⟨p, he⟩ := exec_walkCheck_complete hgate hopen hreads hclosed (hargs ▸ hroot) (hargs ▸ hstop)
  rw [hargs] at he
  exact ⟨_, he, rfl, hm.checkAnswer_eq (by omega) hrecords⟩

end Sys2Proof.Machine
end

section
/-! The bitmap as its readers and its writers see it (10_state.md R41, 20_memory.md R72): one bit set or cleared is one
byte stored, and memory is settled by the bits of the bitmap and by the bytes outside it. -/

namespace Sys2Proof.Machine

/-- Memory with the bit of frame f set (44_frame_allocator.md R240). -/
def State.setFrame (s : State) (f : Nat) : Memory :=
  s.mem.write (s.frameByteAddr f) (setBit (s.mem.read (s.frameByteAddr f)) (f % 8))

/-- Memory with the bit of frame f cleared (R242). -/
def State.clearFrame (s : State) (f : Nat) : Memory :=
  s.mem.write (s.frameByteAddr f) (clearBit (s.mem.read (s.frameByteAddr f)) (f % 8))

section
variable {s : State} (hwf : s.mem.wf = true)
include hwf

theorem frameBit_setFrame {f g : Nat} (hf : f / 8 < 2 ^ 64) (hg : g / 8 < 2 ^ 64) :
    ({ s with mem := s.setFrame f } : State).frameBit g = (s.frameBit g || decide (g = f)) :=
  frameBit_write s hwf hf hg

theorem frameBit_clearFrame {f g : Nat} (hf : f / 8 < 2 ^ 64) (hg : g / 8 < 2 ^ 64) :
    ({ s with mem := s.clearFrame f } : State).frameBit g = (s.frameBit g && decide (g ≠ f)) := by
  show ((s.mem.write _ _).read (s.frameByteAddr g)).getLsbD (g % 8) = _
  rw [Memory.read_write hwf]
  by_cases he : s.frameByteAddr g = s.frameByteAddr f
  · have hbyte : g / 8 = f / 8 := bitmapAddr_inj hg hf he
    rw [if_pos he, getLsbD_clearBit _ (by omega), ← he, decide_eq_decide.mpr (show g % 8 ≠ f % 8 ↔ g ≠ f by omega)]
    rfl
  · have hne : g ≠ f := fun e => he (by rw [e])
    rw [if_neg he, decide_eq_true hne, Bool.and_true]
    rfl

theorem read_setFrame_of_ne {f : Nat} {a : Word} (ha : a ≠ s.frameByteAddr f) :
    (s.setFrame f).read a = s.mem.read a := Memory.read_write_of_ne hwf _ ha

theorem read_clearFrame_of_ne {f : Nat} {a : Word} (ha : a ≠ s.frameByteAddr f) :
    (s.clearFrame f).read a = s.mem.read a := Memory.read_write_of_ne hwf _ ha

theorem setFrame_wf (f : Nat) : (s.setFrame f).wf = true := Memory.write_wf hwf _ _

theorem clearFrame_wf (f : Nat) : (s.clearFrame f).wf = true := Memory.write_wf hwf _ _

/-- Clearing a bit that is 0 leaves memory as it is. -/
theorem clearFrame_eq_self {f : Nat} (hbit : s.frameBit f = false) : s.clearFrame f = s.mem := by
  have hbyte : clearBit (s.mem.read (s.frameByteAddr f)) (f % 8) = s.mem.read (s.frameByteAddr f) := by
    apply BitVec.eq_of_getLsbD_eq
    intro i _
    rw [getLsbD_clearBit _ (by omega)]
    by_cases hi : i = f % 8
    · have hclear : (s.mem.read (s.frameByteAddr f)).getLsbD (f % 8) = false := hbit
      rw [hi, hclear, Bool.false_and]
    · rw [decide_eq_true hi, Bool.and_true]
  refine Memory.ext_of_read (clearFrame_wf hwf f) hwf fun a => ?_
  rw [State.clearFrame, hbyte, Memory.read_write hwf]
  split
  next ha => rw [ha]
  next => rfl

/-- Two memories that agree on the bits of the bitmap and outside its bytes are the same. -/
theorem mem_eq_of_frameBits {m : Memory} (hm : m.wf = true)
    (hbit : ∀ f, f < 8 * s.bitmap.bytes.toNat → ({ s with mem := m } : State).frameBit f = s.frameBit f)
    (hother : ∀ a, (∀ k, k < s.bitmap.bytes.toNat → a ≠ s.bitmapAddr k) → m.read a = s.mem.read a) : m = s.mem := by
  refine Memory.ext_of_read hm hwf fun a => ?_
  by_cases hin : ∃ k, k < s.bitmap.bytes.toNat ∧ a = s.bitmapAddr k
  · obtain ⟨k, hk, rfl⟩ := hin
    apply BitVec.eq_of_getLsbD_eq
    intro i hi
    have hi' := hbit (8 * k + i) (by omega)
    rwa [frameBit_of_byte _ k hi, frameBit_of_byte _ k hi] at hi'
  · exact hother a fun k hk hak => hin ⟨k, hk, hak⟩

end

end Sys2Proof.Machine
end

section
/-! FRAME_TEST, FREE_COUNT and BITMAP_FREEZE past their gate (44_frame_allocator.md R243-R245; O37, O38, O39): the one bit
read, and the free bits of the bytes counted frame by frame. -/

namespace Sys2Proof.Machine

/-! ### Turned away by the lifecycle (10_state.md R47) -/

theorem exec_query_badState {i : Instr} {s : State} (hi : i = .walkCheck ∨ i = .frameTest ∨ i = .freeCount)
    (hh : s.halted = false) (hl : s.lifecycle = .uninit) : exec i s = .next (fail .badState s) :=
  exec_of_gate (gate_of_not_permits hh ((not_permits_iff i s).mpr (.inr (.inr (.inr ⟨hi, hl⟩)))))

theorem exec_use_badState {i : Instr} {s : State}
    (hi : i = .walkMark ∨ i = .frameAlloc ∨ i = .frameFree ∨ i = .bitmapFreeze) (hh : s.halted = false)
    (hl : s.lifecycle = .uninit ∨ s.lifecycle = .frozen) : exec i s = .next (fail .badState s) :=
  exec_of_gate (gate_of_not_permits hh ((not_permits_iff i s).mpr (.inr (.inr (.inl ⟨hi, hl⟩)))))

/-! ### The count -/

/-- Whether frame f is tracked and recorded as free (R244). -/
def State.trackedFree (s : State) (f : Nat) : Bool := !s.frameBit f && decide (f < s.bitmap.frameCount.toNat)

theorem freeInByte_eq_count (s : State) (j : Nat) :
    freeInByte s.bitmap.frameCount.toNat j (s.mem.read (s.bitmapAddr j)) =
      Nat.count (fun k => s.trackedFree (8 * j + k)) 8 := by
  rw [Nat.count, List.countP_eq_length_filter]
  refine congrArg List.length (List.filter_congr fun k hk => ?_)
  rw [State.trackedFree, frameBit_of_byte s j (List.mem_range.mp hk), Bool.decide_eq_true]

/-- The loop of FREE_COUNT counts the tracked free frames of the bytes it reads (R244). -/
theorem countFree_quiet {s : State} (hq : s.quiet) (n j free : Nat) :
    countFree n j free s = .ok (free + Nat.count (fun k => s.trackedFree (8 * j + k)) (8 * n)) s := by
  induction n generalizing j free with
  | zero => rfl
  | succ n ih =>
    rw [countFree, readByte_quiet hq]
    dsimp only
    rw [ih, freeInByte_eq_count, Nat.mul_succ 8 n, Nat.add_comm (8 * n) 8, Nat.count_add, Nat.add_assoc, Nat.mul_succ]
    simp only [Nat.add_assoc]

/-- The frames past FRAME_COUNT add nothing to the count (R244: padding bits are never counted). -/
theorem count_trackedFree (s : State) {n : Nat} (hn : s.bitmap.frameCount.toNat ≤ n) :
    Nat.count (fun f => s.trackedFree f) n = s.freeBelow s.bitmap.frameCount.toNat := by
  obtain ⟨pad, rfl⟩ := Nat.exists_eq_add_of_le hn
  have hpad : Nat.count (fun k => s.trackedFree (s.bitmap.frameCount.toNat + k)) pad = 0 :=
    Nat.count_of_forall_not fun k _ => by simp [State.trackedFree]
  rw [Nat.count_add, hpad, Nat.add_zero, Nat.count, List.countP_eq_length_filter]
  refine congrArg List.length (List.filter_congr fun f hf => ?_)
  rw [State.trackedFree, decide_eq_true (List.mem_range.mp hf), Bool.and_true, Bool.decide_eq_true]

theorem exec_freeCount_quiet {s : State} (hg : gate .freeCount s = none) (hq : s.quiet)
    (hcov : s.bitmap.bytes.toNat = (s.bitmap.frameCount.toNat + 7) / 8) :
    exec .freeCount s = .next (finish
      { Quad.zero with
        v0 := BitVec.ofNat 64 (s.freeBelow s.bitmap.frameCount.toNat), v1 := s.bitmap.frameCount } s) := by
  have hcount := countFree_quiet hq s.bitmap.bytes.toNat 0 0
  simp only [Nat.mul_zero, Nat.zero_add] at hcount
  rw [exec_freeCount hg, hcount, count_trackedFree s (by omega)]
  rfl

theorem exec_bitmapFreeze {s : State} (hg : gate .bitmapFreeze s = none) :
    exec .bitmapFreeze s = .next (finish .zero { s with lifecycle := .frozen }) := by
  show execBitmapFreeze s = _
  unfold execBitmapFreeze
  rw [hg]

/-! ### The statements -/

/-- Settles O37: past the gate and the range check FRAME_TEST makes one read, of the byte that holds the bit. -/
theorem frameTestResult : Obligations.FrameTestResult := by
  refine ⟨decode_encode .frameTest, fun s hh =>
    ⟨exec_query_badState (.inr (.inl rfl)) hh, fun hl hrange => ?_, fun hl hf hq => ?_⟩⟩
  · rw [exec_frameTest (gate_none hh (permits_query (.inr (.inl rfl)) hl)), if_pos hrange]
    rfl
  · rw [frameTest_read hh hl hf, readByte_quiet hq]
    rfl

/-- Settles O38: the loop's count over the bytes of the bitmap is the count over the tracked frames. -/
theorem freeCountResult : Obligations.FreeCountResult := by
  refine ⟨decode_encode .freeCount, fun s hs hh =>
    ⟨exec_query_badState (.inr (.inr rfl)) hh, fun hl hq => ?_⟩⟩
  exact exec_freeCount_quiet (gate_none hh (permits_query (.inr (.inr rfl)) hl)) hq hs.bitmapCovers

/-- Settles O39: BITMAP_FREEZE has no check past the gate. -/
theorem bitmapFreezeResult : Obligations.BitmapFreezeResult := by
  refine ⟨decode_encode .bitmapFreeze, fun s hh =>
    ⟨fun hl => ?_, exec_use_badState (.inr (.inr (.inr rfl))) hh⟩⟩
  exact exec_bitmapFreeze (gate_none hh (by rcases hl with e | e <;> simp [permits, e]))

end Sys2Proof.Machine
end

section
/-! FRAME_ALLOC past its gate with a quiet port (44_frame_allocator.md R240, R241; O34, O35): the scan byte by byte, its
two endings, and the one state a successful allocation leaves. -/

namespace Sys2Proof.Machine

/-! ### The scan -/

/-- The frame that FRAME_ALLOC takes (R241): tracked, free, and every lower one used. -/
structure State.FirstFree (s : State) (f : Nat) : Prop where
  tracked : f < s.bitmap.frameCount.toNat
  free : s.frameBit f = false
  lower : ∀ g, g < f → s.frameBit g = true

section
variable {s : State} (hq : s.quiet)
include hq

/-- The scan passes over a byte whose tracked frames are all used: it is all ones, or its zero bits are padding. -/
theorem scanFree_pass {n j : Nat}
    (hused : ∀ k, k < 8 → 8 * j + k < s.bitmap.frameCount.toNat → s.frameBit (8 * j + k) = true) :
    scanFree (n + 1) j s = scanFree n (j + 1) s := by
  have hnone : firstFree s.bitmap.frameCount.toNat j (s.mem.read (s.bitmapAddr j)) = none := by
    unfold firstFree
    rw [List.find?_eq_none]
    intro k hk
    have hk := List.mem_range.mp hk
    have hbit := hused k hk
    rw [frameBit_of_byte s j hk] at hbit
    simp only [Bool.and_eq_true, Bool.not_eq_true', decide_eq_true_eq, not_and]
    intro h0 hlt
    rw [hbit hlt] at h0
    cases h0
  rw [scanFree, readByte_quiet hq]
  dsimp only
  split
  · rfl
  · rw [hnone]

/-- The scan takes the first free frame of a byte. -/
theorem scanFree_hit {n f : Nat} (hf : s.FirstFree f) :
    scanFree (n + 1) (f / 8) s = .ok (some f) { s with mem := s.setFrame f } := by
  have hfirst : firstFree s.bitmap.frameCount.toNat (f / 8) (s.mem.read (s.bitmapAddr (f / 8))) = some (f % 8) := by
    have htracked := hf.tracked
    refine firstFree_eq (by omega) (by omega) hf.free fun k hk => ?_
    rw [← frameBit_of_byte s (f / 8) (by omega)]
    exact hf.lower _ (by omega)
  have hbyte : s.mem.read (s.bitmapAddr (f / 8)) ≠ 0xFF := by
    intro hfull
    have hones : ∀ i, i < 8 → (0xFF : Byte).getLsbD i = true := by decide
    have hbit : (s.mem.read (s.bitmapAddr (f / 8))).getLsbD (f % 8) = false := hf.free
    rw [hfull, hones _ (by omega)] at hbit
    cases hbit
  rw [scanFree, readByte_quiet hq]
  dsimp only
  rw [if_neg hbyte, hfirst]
  dsimp only
  rw [writeByte_quiet hq]
  dsimp only
  rw [Nat.div_add_mod]
  rfl

theorem scanFree_found {n j f : Nat} (hf : s.FirstFree f) (hj : j ≤ f / 8) (hn : f / 8 < j + n) :
    scanFree n j s = .ok (some f) { s with mem := s.setFrame f } := by
  induction n generalizing j with
  | zero => omega
  | succ n ih =>
    rcases Nat.eq_or_lt_of_le hj with rfl | hlt
    · exact scanFree_hit hq hf
    · rw [scanFree_pass hq fun k hk _ => hf.lower _ (by omega)]
      exact ih hlt (by omega)

theorem scanFree_full (hused : ∀ f, f < s.bitmap.frameCount.toNat → s.frameBit f = true) (n j : Nat) :
    scanFree n j s = .ok none s := by
  induction n generalizing j with
  | zero => rfl
  | succ n ih =>
    rw [scanFree_pass hq fun k _ hlt => hused _ hlt]
    exact ih (j + 1)

end

/-! ### FRAME_ALLOC by what it finds -/

/-- The state FRAME_ALLOC leaves when it takes frame f (R240). -/
def State.allocated (s : State) (f : Nat) : State :=
  finish { v0 := frameStart f, v1 := 0, v2 := BitVec.ofNat 64 f, v3 := 0 }
    { s with lifecycle := .inuse, mem := s.setFrame f }

theorem State.FirstFree.exists {s : State} (h : ¬ ∀ f, f < s.bitmap.frameCount.toNat → s.frameBit f = true) :
    ∃ f, s.FirstFree f := by
  have hex : ∃ f, f < s.bitmap.frameCount.toNat ∧ s.frameBit f = false := by simpa using h
  obtain ⟨htracked, hfree⟩ := Nat.find_spec hex
  refine ⟨Nat.find hex, htracked, hfree, fun g hg => ?_⟩
  have hmin := Nat.find_min hex hg
  exact Bool.eq_true_of_not_eq_false fun h0 => hmin ⟨by omega, h0⟩

theorem frameStart_toNat {f : Nat} (hf : 4096 * f < 2 ^ 64) : (frameStart f).toNat = 4096 * f := by
  rw [frameStart, if_pos (by omega), BitVec.toNat_ofNat]
  exact Nat.mod_eq_of_lt hf

theorem gate_frameAlloc {s : State} (hh : s.halted = false) (hl : s.lifecycle = .built ∨ s.lifecycle = .inuse) :
    gate .frameAlloc s = none :=
  gate_none hh ((permits_use_iff s (.inr (.inl rfl))).mpr hl)

section
variable {s : State} (hg : gate .frameAlloc s = none) (hq : s.quiet)
include hg hq

theorem exec_frameAlloc_found {f : Nat} (hs : s.Inv) (hf : s.FirstFree f) :
    exec .frameAlloc s = .next (s.allocated f) := by
  have hcov := hs.bitmapCovers
  have htracked := hf.tracked
  rw [exec_frameAlloc hg, scanFree_found (s := { s with lifecycle := .inuse }) hq ⟨hf.tracked, hf.free, hf.lower⟩
    (by omega) (by omega)]
  rfl

theorem exec_frameAlloc_full (hused : ∀ f, f < s.bitmap.frameCount.toNat → s.frameBit f = true) :
    exec .frameAlloc s = .next (fail .outOfMemory { s with lifecycle := .inuse }) := by
  rw [exec_frameAlloc hg, scanFree_full (s := { s with lifecycle := .inuse }) hq hused]
  rfl

end

/-- FRAME_ALLOC with a quiet port ends with OK only by taking the first free frame. -/
theorem exec_frameAlloc_ok {s t : State} (hs : s.Inv) (hq : s.quiet) (h : exec .frameAlloc s = .next t)
    (ht : t.status = .ok) : ∃ f, s.FirstFree f ∧ t = s.allocated f := by
  have hg := gate_of_exec_ok h ht
  by_cases hfull : ∀ f, f < s.bitmap.frameCount.toNat → s.frameBit f = true
  · rw [exec_frameAlloc_full hg hq hfull] at h
    cases h
    cases ht
  · obtain ⟨f, hf⟩ := State.FirstFree.exists hfull
    rw [exec_frameAlloc_found hg hq hs hf] at h
    cases h
    exact ⟨f, hf, rfl⟩

/-- The bits after an allocation. -/
theorem frameBit_allocated {s : State} (hs : s.Inv) {f g : Nat} (hf : f < s.bitmap.frameCount.toNat)
    (hg : g < 8 * s.bitmap.bytes.toNat) : (s.allocated f).frameBit g = (s.frameBit g || decide (g = f)) := by
  have hcov := hs.bitmapCovers
  have hbound := hs.frameBound
  exact frameBit_setFrame hs.memCanonical (by omega) (by omega)

/-- RES2 holds the index of a tracked frame whole (20_memory.md R84). -/
theorem allocated_index {s : State} (hs : s.Inv) {f : Nat} (hf : f < s.bitmap.frameCount.toNat) :
    (s.allocated f).res.v2.toNat = f := by
  have hbound := hs.frameBound
  exact Nat.mod_eq_of_lt (by omega)

/-! ### The statements -/

/-- Settles O34: the scan takes the first free frame, or passes over every byte. -/
theorem frameAllocResult : Obligations.FrameAllocResult := by
  refine ⟨decode_encode .frameAlloc, fun s hs hh =>
    ⟨exec_use_badState (.inr (.inl rfl)) hh, fun hl hq => ⟨fun f hf hfree hused => ?_, fun hused => ?_⟩⟩⟩
  · refine ⟨s.setFrame f, s.allocated f, exec_frameAlloc_found (gate_frameAlloc hh hl) hq hs ⟨hf, hfree, hused⟩, rfl,
      frameStart_toNat, fun g hg => ?_, fun a ha => read_setFrame_of_ne hs.memCanonical ha⟩
    rw [frameBit_allocated hs hf hg, Bool.or_eq_true, decide_eq_true_eq]
  · exact exec_frameAlloc_full (gate_frameAlloc hh hl) hq hused

/-- Settles O35: the frame taken second was free and is not the first, below which none is free. -/
theorem allocationsIncrease : Obligations.AllocationsIncrease := by
  intro s t u hs hq ht htok hu huok
  have hinv := exec_inv hs ht
  obtain ⟨f, hf, rfl⟩ := exec_frameAlloc_ok hs hq ht htok
  obtain ⟨g, hg, rfl⟩ := exec_frameAlloc_ok hinv hq hu huok
  have hgs : g < s.bitmap.frameCount.toNat := hg.tracked
  have hcov := hs.bitmapCovers
  have hfree := hg.free
  rw [frameBit_allocated hs hf.tracked (by omega), Bool.or_eq_false_iff, decide_eq_false_iff_not] at hfree
  obtain ⟨hclear, hne⟩ := hfree
  have hge : ¬ g < f := fun hlt => by
    rw [hf.lower g hlt] at hclear
    cases hclear
  rw [allocated_index hs hf.tracked, allocated_index hinv hg.tracked]
  omega

end Sys2Proof.Machine
end

section
/-! FRAME_FREE past its gate with a quiet port (44_frame_allocator.md R242, R246; O36, O40): the clearing loop frame by
frame, the one state a successful free leaves, and how it and FRAME_ALLOC undo each other. -/

namespace Sys2Proof.Machine

/-! ### The clearing loop -/

/-- What the clearing of frames f, .., f + n - 1 has made of the memory of a state (R242). -/
structure Freed (s : State) (f n : Nat) (m : Memory) : Prop where
  wf : m.wf = true
  bit : ∀ g, g < 8 * s.bitmap.bytes.toNat →
    (({ s with mem := m } : State).frameBit g = true ↔ s.frameBit g = true ∧ ¬ (f ≤ g ∧ g < f + n))
  others : ∀ a, (∀ g, f ≤ g → g < f + n → a ≠ s.frameByteAddr g) → m.read a = s.mem.read a

section
variable {s : State} {f n : Nat} (hwf : s.mem.wf = true) (hn : f + (n + 1) ≤ 8 * s.bitmap.bytes.toNat)
include hwf hn

/-- Frame f cleared first, the frames after it next. -/
theorem Freed.cons {m : Memory} (h : Freed { s with mem := s.clearFrame f } (f + 1) n m) : Freed s f (n + 1) m := by
  have hbytes := s.bitmap.bytes.isLt
  refine ⟨h.wf, fun g hg => (h.bit g hg).trans ?_, fun a ha => ?_⟩
  · rw [frameBit_clearFrame hwf (by omega) (by omega), Bool.and_eq_true, decide_eq_true_eq, and_assoc]
    exact and_congr_right fun _ => by omega
  · exact (h.others a fun g h1 h2 => ha g (by omega) (by omega)).trans
      (read_clearFrame_of_ne hwf (ha f (by omega) (by omega)))

/-- How many of the frames are used, the first one taken apart and cleared. -/
theorem usedBetween_succ :
    s.usedBetween f (n + 1) =
      (if s.frameBit f then 1 else 0) + ({ s with mem := s.clearFrame f } : State).usedBetween (f + 1) n := by
  have hbytes := s.bitmap.bytes.isLt
  have hrest : (List.range' (f + 1) n).filter (fun g => ({ s with mem := s.clearFrame f } : State).frameBit g) =
      (List.range' (f + 1) n).filter fun g => s.frameBit g := by
    refine List.filter_congr fun g hg => ?_
    obtain ⟨h1, h2⟩ := List.mem_range'_1.mp hg
    rw [frameBit_clearFrame hwf (by omega) (by omega), decide_eq_true (by omega), Bool.and_true]
  rw [State.usedBetween, State.usedBetween, hrest, List.range'_succ, List.filter_cons]
  split
  · rw [List.length_cons, Nat.add_comm]
  · rw [Nat.zero_add]

end

/-- One frame of the loop clears its bit, which is no change where the bit is 0. -/
theorem freeFrames_succ_quiet {s : State} (hq : s.quiet) (hwf : s.mem.wf = true) (n f cleared : Nat) :
    freeFrames (n + 1) f cleared s =
      freeFrames n (f + 1) (cleared + if s.frameBit f then 1 else 0) { s with mem := s.clearFrame f } := by
  have hread : (s.mem.read (s.frameByteAddr f)).getLsbD (f % 8) = s.frameBit f := rfl
  rw [freeFrames, readByte_quiet hq]
  dsimp only
  rw [hread]
  cases hbit : s.frameBit f with
  | true =>
    rw [if_pos rfl, writeByte_quiet hq]
    rfl
  | false =>
    rw [clearFrame_eq_self hwf hbit]
    rfl

theorem freeFrames_quiet {s : State} {n f : Nat} (cleared : Nat) (hq : s.quiet) (hwf : s.mem.wf = true)
    (hn : f + n ≤ 8 * s.bitmap.bytes.toNat) :
    ∃ m, freeFrames n f cleared s = .ok (cleared + s.usedBetween f n) { s with mem := m } ∧ Freed s f n m := by
  induction n generalizing s f cleared with
  | zero =>
    refine ⟨s.mem, rfl, hwf, fun g _ => ?_, fun a _ => rfl⟩
    exact (and_iff_left (by omega)).symm
  | succ n ih =>
    obtain ⟨m, he, hm⟩ := ih (s := { s with mem := s.clearFrame f }) (f := f + 1)
      (cleared + if s.frameBit f then 1 else 0) hq (clearFrame_wf hwf f) (by show _ ≤ 8 * s.bitmap.bytes.toNat; omega)
    refine ⟨m, ?_, hm.cons hwf hn⟩
    rw [freeFrames_succ_quiet hq hwf, he, usedBetween_succ hwf hn, Nat.add_assoc]

/-! ### FRAME_FREE by its checks -/

theorem gate_frameFree {s : State} (hh : s.halted = false) (hl : s.lifecycle = .built ∨ s.lifecycle = .inuse) :
    gate .frameFree s = none :=
  gate_none hh ((permits_use_iff s (.inr (.inr rfl))).mpr hl)

theorem pageSizeOf_eq_none {v : Word} (hv : 1 < v.toNat) : pageSizeOf v = none := by
  have h0 : v ≠ 0 := by
    rintro rfl
    exact absurd hv (by decide)
  have h1 : v ≠ 1 := by
    rintro rfl
    exact absurd hv (by decide)
  rw [pageSizeOf, if_neg h0, if_neg h1]

/-- The size codes and their numbers of frames (R242). -/
theorem pageSizeOf_of_code {v : Word} {n : Nat} (h : v = 0 ∧ n = 1 ∨ v = 1 ∧ n = 512) :
    ∃ sz, pageSizeOf v = some sz ∧ pageFrames sz = n := by
  rcases h with ⟨rfl, rfl⟩ | ⟨rfl, rfl⟩
  · exact ⟨.kib4, rfl, rfl⟩
  · exact ⟨.mib2, rfl, rfl⟩

/-- The state FRAME_FREE leaves when it has cleared the n frames of its Page, memory being `m` (R242). -/
def State.freed (s : State) (n : Nat) (m : Memory) : State :=
  finish { v0 := BitVec.ofNat 64 (s.usedBetween (s.args.v0.toNat / 4096) n), v1 := 0, v2 := 0, v3 := 0 }
    { s with lifecycle := .inuse, mem := m }

section
variable {s : State} (hg : gate .frameFree s = none)
include hg

theorem exec_frameFree_badSize (hsz : 1 < s.args.v1.toNat) : exec .frameFree s = .next (fail .badRange s) := by
  rw [exec_frameFree hg, pageSizeOf_eq_none hsz]
  rfl

variable {n : Nat} (hsz : s.args.v1 = 0 ∧ n = 1 ∨ s.args.v1 = 1 ∧ n = 512)
include hsz

theorem exec_frameFree_unaligned (ha : s.args.v0.toNat % (4096 * n) ≠ 0) :
    exec .frameFree s = .next (fail .invalidAlignment s) := by
  obtain ⟨sz, hcode, rfl⟩ := pageSizeOf_of_code hsz
  rw [exec_frameFree hg, hcode]
  exact if_pos ha

variable (ha : s.args.v0.toNat % (4096 * n) = 0)
include ha

theorem exec_frameFree_badRange (hr : s.bitmap.frameCount.toNat < s.args.v0.toNat / 4096 + n) :
    exec .frameFree s = .next (fail .badRange s) := by
  obtain ⟨sz, hcode, rfl⟩ := pageSizeOf_of_code hsz
  rw [exec_frameFree hg, hcode]
  exact (if_neg (not_not.mpr ha)).trans (if_pos hr)

theorem exec_frameFree_page (hs : s.Inv) (hq : s.quiet)
    (hr : s.args.v0.toNat / 4096 + n ≤ s.bitmap.frameCount.toNat) :
    ∃ m, exec .frameFree s = .next (s.freed n m) ∧ Freed s (s.args.v0.toNat / 4096) n m := by
  obtain ⟨sz, hcode, rfl⟩ := pageSizeOf_of_code hsz
  have hcov := hs.bitmapCovers
  obtain ⟨m, he, hm⟩ := freeFrames_quiet (s := { s with lifecycle := .inuse }) (n := pageFrames sz)
    (f := s.args.v0.toNat / 4096) 0 hq hs.memCanonical (by show _ ≤ 8 * s.bitmap.bytes.toNat; omega)
  refine ⟨m, ?_, hm.wf, hm.bit, hm.others⟩
  have hpage : s.freePage sz = .next (s.freed (pageFrames sz) m) := by
    rw [State.freePage, frameSize, he, Nat.zero_add]
    rfl
  rw [exec_frameFree hg, hcode, ← hpage]
  exact (if_neg (not_not.mpr ha)).trans (if_neg (not_lt.mpr hr))

end

/-- Settles O36, by the checks of FRAME_FREE in their order and by its loop. -/
theorem frameFreeResult : Obligations.FrameFreeResult := by
  refine ⟨decode_encode .frameFree, fun s hs hh =>
    ⟨exec_use_badState (.inr (.inr (.inl rfl))) hh, fun hl => ?_⟩⟩
  have hg := gate_frameFree hh hl
  refine ⟨exec_frameFree_badSize hg, fun n hsz =>
    ⟨exec_frameFree_unaligned hg hsz, exec_frameFree_badRange hg hsz, fun ha hr hq => ?_⟩⟩
  obtain ⟨m, he, hm⟩ := exec_frameFree_page hg hsz ha hs hq hr
  exact ⟨m, s.freed n m, he, rfl, hm.bit, hm.others⟩

/-! ### FRAME_ALLOC and FRAME_FREE one after the other -/

/-- FRAME_FREE of the one frame that starts at ARG0 clears its bit, and answers whether it was 1. -/
theorem exec_frameFree_frame {s : State} {f : Nat} (hg : gate .frameFree s = none) (hs : s.Inv) (hq : s.quiet)
    (h0 : s.args.v0.toNat = 4096 * f) (h1 : s.args.v1 = 0) (hf : f < s.bitmap.frameCount.toNat) :
    ∃ m, exec .frameFree s = .next (s.freed 1 m) ∧ Freed s f 1 m := by
  have hdiv : s.args.v0.toNat / 4096 = f := by omega
  obtain ⟨m, he, hm⟩ := exec_frameFree_page hg (.inl ⟨h1, rfl⟩) (by omega) hs hq (by omega)
  rw [hdiv] at hm
  exact ⟨m, he, hm⟩

theorem usedBetween_one (s : State) (f : Nat) : s.usedBetween f 1 = if s.frameBit f then 1 else 0 := by
  rw [State.usedBetween, List.range'_one, List.filter_singleton]
  cases s.frameBit f <;> rfl

section
variable {s : State} {f : Nat} {m : Memory} (hs : s.Inv) (hf : f < s.bitmap.frameCount.toNat)
include hs hf

/-- Clearing the bit that was set restores memory (R246). -/
theorem Freed.setFrame_eq (hfree : s.frameBit f = false) (h : Freed { s with mem := s.setFrame f } f 1 m) :
    m = s.mem := by
  have hcov := hs.bitmapCovers
  have hbound := hs.frameBound
  refine mem_eq_of_frameBits hs.memCanonical h.wf (fun g hg => ?_) fun a ha => ?_
  · rw [Bool.eq_iff_iff]
    refine (h.bit g hg).trans ?_
    rw [frameBit_setFrame hs.memCanonical (by omega) (by omega), Bool.or_eq_true, decide_eq_true_eq]
    constructor
    · rintro ⟨hset | rfl, hne⟩
      · exact hset
      · exact absurd ⟨le_refl g, Nat.lt_succ_self g⟩ hne
    · intro hset
      have hne : g ≠ f := by
        rintro rfl
        rw [hfree] at hset
        cases hset
      exact ⟨.inl hset, by omega⟩
  · exact (h.others a fun g h1 h2 => ha (g / 8) (by omega)).trans
      (read_setFrame_of_ne hs.memCanonical (ha (f / 8) (by omega)))

/-- Setting the bit that was cleared restores memory (R246). -/
theorem Freed.eq_of_setFrame (hused : s.frameBit f = true) (h : Freed s f 1 m) :
    ({ s with mem := m } : State).setFrame f = s.mem := by
  have hcov := hs.bitmapCovers
  have hbound := hs.frameBound
  refine mem_eq_of_frameBits hs.memCanonical (setFrame_wf (s := { s with mem := m }) h.wf f) (fun g hg => ?_)
    fun a ha => ?_
  · refine (frameBit_setFrame (s := { s with mem := m }) h.wf (by omega) (by omega)).trans ?_
    rw [Bool.eq_iff_iff, Bool.or_eq_true, decide_eq_true_eq, h.bit g hg]
    constructor
    · rintro (⟨hset, _⟩ | rfl)
      · exact hset
      · exact hused
    · intro hset
      by_cases hgf : g = f
      · exact .inr hgf
      · exact .inl ⟨hset, by omega⟩
  · exact (read_setFrame_of_ne (s := { s with mem := m }) h.wf (ha (f / 8) (by omega))).trans
      (h.others a fun g h1 h2 => ha (g / 8) (by omega))

end

/-- FRAME_FREE of the frame that FRAME_ALLOC took restores memory. -/
theorem frameFree_allocated {s : State} {f : Nat} {x y : Word} (hs : s.Inv) (hh : s.halted = false) (hq : s.quiet)
    (hf : s.FirstFree f) (hinv : (s.allocated f).Inv) (hstart : 4096 * f < 2 ^ 64) :
    ∃ u, exec .frameFree { s.allocated f with args := { v0 := frameStart f, v1 := 0, v2 := x, v3 := y } } = .next u
      ∧ u.status = .ok ∧ u.res.v0 = 1 ∧ u.mem = s.mem := by
  have hcov := hs.bitmapCovers
  have htracked := hf.tracked
  have hset : (s.allocated f).frameBit f = true := by
    rw [frameBit_allocated hs hf.tracked (by omega), decide_eq_true rfl, Bool.or_true]
  obtain ⟨m, he, hm⟩ := exec_frameFree_frame
    (s := { s.allocated f with args := { v0 := frameStart f, v1 := 0, v2 := x, v3 := y } }) (f := f)
    (gate_frameFree hh (.inr rfl)) (hinv.outside _ _ _ _ _ hinv.memCanonical) hq (frameStart_toNat hstart) rfl htracked
  refine ⟨_, he, rfl, ?_, Freed.setFrame_eq hs hf.tracked hf.free ⟨hm.wf, hm.bit, hm.others⟩⟩
  show BitVec.ofNat 64 ((s.allocated f).usedBetween ((frameStart f).toNat / 4096) 1) = 1
  rw [frameStart_toNat hstart, Nat.mul_div_cancel_left f (by omega), usedBetween_one, hset]
  rfl

/-- FRAME_FREE of one frame ends with OK only if the frame is tracked. -/
theorem exec_frameFree_ok {s t : State} {f : Nat} (hs : s.Inv) (hq : s.quiet) (h0 : s.args.v0.toNat = 4096 * f)
    (h1 : s.args.v1 = 0) (h : exec .frameFree s = .next t) (ht : t.status = .ok) :
    f < s.bitmap.frameCount.toNat ∧ ∃ m, t = s.freed 1 m ∧ Freed s f 1 m := by
  have hg := gate_of_exec_ok h ht
  have hf : f < s.bitmap.frameCount.toNat := by
    by_contra hge
    rw [exec_frameFree_badRange hg (.inl ⟨h1, rfl⟩) (by omega) (by omega)] at h
    cases h
    cases ht
  obtain ⟨m, he, hm⟩ := exec_frameFree_frame hg hs hq h0 h1 hf
  rw [he] at h
  cases h
  exact ⟨hf, m, rfl, hm⟩

/-- The frame just freed is the first free one when every lower one is used. -/
theorem Freed.firstFree {s : State} {f : Nat} {m : Memory} (hs : s.Inv) (hf : f < s.bitmap.frameCount.toNat)
    (hlower : ∀ g, g < f → s.frameBit g = true) (h : Freed s f 1 m) : (s.freed 1 m).FirstFree f := by
  have hcov := hs.bitmapCovers
  refine ⟨hf, ?_, fun g hg => ?_⟩
  · refine Bool.eq_false_iff.mpr fun hset => ?_
    obtain ⟨_, hout⟩ := (h.bit f (by omega)).mp hset
    exact hout ⟨le_refl f, Nat.lt_succ_self f⟩
  · exact (h.bit g (by omega)).mpr ⟨hlower g hg, by omega⟩

/-- Settles O40: in both orders one bit is set and cleared again, and nothing else is written. -/
theorem allocFreeToggle : Obligations.AllocFreeToggle := by
  refine ⟨fun s t x y hs hq h ht hstart => ?_, fun s t f hs hq h0 h1 hused hlower h ht => ?_⟩
  · have hh := (gate_passed (gate_of_exec_ok h ht)).2.resolve_right nofun
    have hinv := exec_inv hs h
    obtain ⟨f, hf, rfl⟩ := exec_frameAlloc_ok hs hq h ht
    rw [allocated_index hs hf.tracked] at hstart
    exact frameFree_allocated hs hh hq hf hinv hstart
  · have hh := (gate_passed (gate_of_exec_ok h ht)).2.resolve_right nofun
    have hinv := exec_inv hs h
    obtain ⟨hf, m, rfl, hm⟩ := exec_frameFree_ok hs hq h0 h1 h ht
    have hstart := s.args.v0.isLt
    refine ⟨(s.freed 1 m).allocated f,
      exec_frameAlloc_found (s := s.freed 1 m) (gate_frameAlloc hh (.inr rfl)) hq hinv (hm.firstFree hs hf hlower),
      rfl, ?_,
      hm.eq_of_setFrame hs hf hused⟩
    exact BitVec.eq_of_toNat_eq ((frameStart_toNat (by omega)).trans h0.symm)

end Sys2Proof.Machine
end

section
/-! CSR_READ and CSR_WRITE (45_control.md R270-R272; O41, O42): the register a number names, its value and its write
value, then one equation per way the two commands end. -/

namespace Sys2Proof.Machine

/-! ### Registers by number (10_state.md R28, 30_encoding.md R93) -/

theorem mem_allCsrs (c : Csr) : c ∈ allCsrs := by cases c <;> decide

theorem csrOf_csrNumber (c : Csr) : csrOf (BitVec.ofNat 64 (csrNumber c)) = some c := by cases c <;> rfl

theorem csrOf_of_eq_csrNumber {v : Word} {c : Csr} (h : v = BitVec.ofNat 64 (csrNumber c)) : csrOf v = some c :=
  h ▸ csrOf_csrNumber c

theorem csrOf_eq_some_iff {v : Word} {c : Csr} : csrOf v = some c ↔ v.toNat = csrNumber c := by
  refine ⟨fun h => ?_, fun h => ?_⟩
  · have hn : (csrNumber c == v.toNat) = true :=
      List.find?_some (p := fun c => csrNumber c == v.toNat) h
    exact (beq_iff_eq.mp hn).symm
  · refine csrOf_of_eq_csrNumber ?_
    rw [← h, BitVec.ofNat_toNat, BitVec.setWidth_eq]

theorem csrOf_eq_none_iff {v : Word} : csrOf v = none ↔ ∀ c, v.toNat ≠ csrNumber c := by
  rw [← Option.not_isSome_iff_eq_none, Option.isSome_iff_exists, not_exists]
  exact forall_congr' fun _ => not_congr csrOf_eq_some_iff

theorem csrOf_ro_of_mem_readOnlyNumbers {v : Word} (h : v.toNat ∈ readOnlyNumbers) :
    ∃ c, csrOf v = some c ∧ csrAccess c = .ro := by
  have he : readOnlyNumbers = (allCsrs.filter (fun c => csrAccess c = .ro)).map csrNumber := by decide
  rw [he] at h
  obtain ⟨c, hc, hn⟩ := List.mem_map.mp h
  exact ⟨c, csrOf_eq_some_iff.mpr hn.symm, of_decide_eq_true (List.mem_filter.mp hc).2⟩

/-! ### The values of the registers -/

theorem toNat_append_eq_add {m n : Nat} (x : BitVec m) (y : BitVec n) :
    (x ++ y).toNat = 2 ^ n * x.toNat + y.toNat := by
  rw [BitVec.toNat_append, ← Nat.shiftLeft_add_eq_or_of_lt y.isLt, Nat.shiftLeft_eq, Nat.mul_comm]

/-- The fields of STATE have the weights of 10_state.md R30. -/
theorem stateWord_eq_sum (s : State) :
    s.stateWord = BitVec.ofNat 64 ((lifecycleCode s.lifecycle).toNat + 4 * s.arenaValid.toNat + 8 * s.halted.toNat
      + 16 * (walkerStateCode s.walker).toNat) := by
  rw [State.stateWord, ← BitVec.ofNat_toNat]
  simp only [toNat_append_eq_add, BitVec.toNat_ofBool]
  congr 1
  omega

theorem toNat_ofNat_index (i : Fin 513) : (BitVec.ofNat 10 i.val).toNat = i.val := by
  rw [BitVec.toNat_ofNat]
  omega

/-- The fields of WALK_POS have the weights of 10_state.md R45. -/
theorem walkPosWord_eq_sum (s : State) :
    s.walkPosWord = BitVec.ofNat 64 ((walkerPos s.walker).idx4.val + 2 ^ 10 * (walkerPos s.walker).idx3.val
      + 2 ^ 20 * (walkerPos s.walker).idx2.val + 2 ^ 30 * (walkerPos s.walker).idx1.val
      + 2 ^ 40 * (walkerLevel s.walker).toNat) := by
  rw [State.walkPosWord, ← BitVec.ofNat_toNat]
  simp only [toNat_append_eq_add, toNat_ofNat_index]
  congr 1
  omega

/-- The statements' list of the registers is the model's numbering with the model's values. -/
theorem registers_eq_map (s : State) : s.registers = allCsrs.map (fun c => (csrNumber c, s.readCsr c)) := by
  simp only [State.registers, BitVec.ofNat_toNat, ← stateWord_eq_sum, ← walkPosWord_eq_sum]
  rfl

theorem mem_registers_iff {s : State} {n : Nat} {v : Word} :
    (n, v) ∈ s.registers ↔ ∃ c, n = csrNumber c ∧ v = s.readCsr c := by
  simp only [registers_eq_map, List.mem_map, mem_allCsrs, true_and, Prod.mk.injEq, eq_comm]

theorem csrOf_eq_none_of_not_mem_registers {s : State} {x : Word} (h : ∀ v, (x.toNat, v) ∉ s.registers) :
    csrOf x = none :=
  csrOf_eq_none_iff.mpr fun c hc => h (s.readCsr c) (mem_registers_iff.mpr ⟨c, hc, rfl⟩)

theorem readCsr_writeCsr {c : Csr} (s : State) (v : Word) (hc : csrAccess c ≠ .ro) :
    (s.writeCsr c v).readCsr c = csrWriteValue c v := by
  cases c
  case ctrl | dmapOffset | mmapBase | mmapCount | addrWidths | usableType => rfl
  all_goals exact absurd rfl hc

/-! ### CSR_READ (R270) -/

theorem exec_csrRead_of_mem_registers {s : State} {n : Nat} {v : Word} (hv : (n, v) ∈ s.registers)
    (hn : s.args.v0.toNat = n) : exec .csrRead s = .next (finish { Quad.zero with v0 := v } s) := by
  obtain ⟨c, rfl, rfl⟩ := mem_registers_iff.mp hv
  exact execCsrRead_of_csrOf (csrOf_eq_some_iff.mpr hn)

theorem exec_csrRead_badAccess {s : State} (hc : csrOf s.args.v0 = none) :
    exec .csrRead s = .next (fail .badAccess s) := by
  have hg : gate .csrRead s = none := by simp [gate, runsHalted, permits]
  show execCsrRead s = _
  unfold execCsrRead
  rw [hg, hc]

/-! ### CSR_WRITE (R271), past its gate -/

section
variable {s : State} {c : Csr}

theorem exec_csrWrite_badAccess (hh : s.halted = false)
    (hc : csrOf s.args.v0 = none ∨ ∃ c, csrOf s.args.v0 = some c ∧ csrAccess c = .ro) :
    exec .csrWrite s = .next (fail .badAccess s) := by
  have hg : gate .csrWrite s = none := gate_none hh rfl
  show execCsrWrite s = _
  unfold execCsrWrite
  rcases hc with hnone | ⟨c, hc, hro⟩
  · rw [hg, hnone]
  · simp only [hg, hc, hro]

theorem exec_csrWrite_badState (hh : s.halted = false) (hc : csrOf s.args.v0 = some c)
    (ha : csrAccess c = .uninitOnly) (hl : s.lifecycle ≠ .uninit) :
    exec .csrWrite s = .next (fail .badState s) := by
  have hg : gate .csrWrite s = none := gate_none hh rfl
  show execCsrWrite s = _
  unfold execCsrWrite
  simp only [hg, hc, ha, if_pos hl]

theorem exec_csrWrite_stores (hh : s.halted = false) (hc : csrOf s.args.v0 = some c)
    (ha : csrAccess c = .rw ∨ csrAccess c = .uninitOnly ∧ s.lifecycle = .uninit) :
    exec .csrWrite s = .next (finish { Quad.zero with v0 := csrWriteValue c s.args.v1 }
      (s.writeCsr c s.args.v1)) := by
  have hg : gate .csrWrite s = none := gate_none hh rfl
  have hro : csrAccess c ≠ .ro := by rcases ha with e | ⟨e, _⟩ <;> rw [e] <;> decide
  rw [← readCsr_writeCsr s s.args.v1 hro]
  show execCsrWrite s = _
  unfold execCsrWrite
  rcases ha with e | ⟨e, hl⟩
  · simp only [hg, hc, e]
  · simp only [hg, hc, e, if_neg (not_not_intro hl)]

end

/-! ### The statements -/

/-- Settles O41: the gate of CSR_READ never closes, and the listed numbers are those of the model's registers. -/
theorem csrReadResult : Obligations.CsrReadResult :=
  ⟨decode_encode .csrRead, fun _ => ⟨fun _ _ hv hn => exec_csrRead_of_mem_registers hv hn,
    fun h => exec_csrRead_badAccess (csrOf_eq_none_of_not_mem_registers h)⟩⟩

/-- Settles O42, by the access type of the register named. -/
theorem csrWriteResult : Obligations.CsrWriteResult := by
  refine ⟨decode_encode .csrWrite, fun s hh => exec_of_gate (gate_of_halted hh nofun nofun), fun s hh => ?_⟩
  refine ⟨fun h => ?ctrl, fun h => ?addrWidths,
    fun hl => ⟨fun h => ?dmapOffset, fun h => ?mmapBase, fun h => ?mmapCount, fun h => ?usableType⟩,
    fun hl h => ?badState, fun h => ?badAccess⟩
  case ctrl => exact exec_csrWrite_stores hh (csrOf_of_eq_csrNumber (c := .ctrl) h) (.inl rfl)
  case addrWidths => exact exec_csrWrite_stores hh (csrOf_of_eq_csrNumber (c := .addrWidths) h) (.inl rfl)
  case dmapOffset => exact exec_csrWrite_stores hh (csrOf_of_eq_csrNumber (c := .dmapOffset) h) (.inr ⟨rfl, hl⟩)
  case mmapBase => exact exec_csrWrite_stores hh (csrOf_of_eq_csrNumber (c := .mmapBase) h) (.inr ⟨rfl, hl⟩)
  case mmapCount => exact exec_csrWrite_stores hh (csrOf_of_eq_csrNumber (c := .mmapCount) h) (.inr ⟨rfl, hl⟩)
  case usableType => exact exec_csrWrite_stores hh (csrOf_of_eq_csrNumber (c := .usableType) h) (.inr ⟨rfl, hl⟩)
  case badState =>
    rcases h with h | h | h | h
    · exact exec_csrWrite_badState hh (csrOf_of_eq_csrNumber (c := .dmapOffset) h) rfl hl
    · exact exec_csrWrite_badState hh (csrOf_of_eq_csrNumber (c := .mmapBase) h) rfl hl
    · exact exec_csrWrite_badState hh (csrOf_of_eq_csrNumber (c := .mmapCount) h) rfl hl
    · exact exec_csrWrite_badState hh (csrOf_of_eq_csrNumber (c := .usableType) h) rfl hl
  case badAccess =>
    refine exec_csrWrite_badAccess hh ?_
    rcases h with hro | hnone
    · exact .inr (csrOf_ro_of_mem_readOnlyNumbers hro)
    · exact .inl (csrOf_eq_none_of_not_mem_registers hnone)

end Sys2Proof.Machine
end

section
/-! Every command and every step completes (43_page_walker.md R204, 60_exceptions.md R327; O7): no meaning refuses, and
the one stop of the model, a walk past the bound of R217, is never reached. Past its gate a command is one of the
equations stated for it, and only the walks have an ending to exclude. -/

namespace Sys2Proof.Machine

/-- The outcome is a next state. -/
def Completes (r : Result) : Prop := ∃ t, r = .next t

theorem completes_next (t : State) : Completes (.next t) := ⟨t, rfl⟩

theorem completes_ite {c : Prop} [Decidable c] {r r' : Result} (h : Completes r) (h' : Completes r') :
    Completes (if c then r else r') := by
  split
  · exact h
  · exact h'

/-- A part that accesses memory ends in a fatal fault, which is a next state, or hands over to the rest. -/
theorem Access.orFatal_completes {α : Type} (x : Access α) {k : α → State → Result} (hk : ∀ a s, Completes (k a s)) :
    Completes (x.orFatal k) := by
  cases x with
  | ok a s => exact hk a s
  | fatal f s => exact completes_next _

theorem Advance.result_completes {ad : Advance} (h : ad ≠ .unfinished) : Completes ad.result := by
  cases ad with
  | unfinished => exact absurd rfl h
  | record | exhausted | fatal => exact completes_next _

theorem WalkRun.result_completes {run : WalkRun} (h : run ≠ .unfinished) : Completes run.result := by
  cases run with
  | unfinished => exact absurd rfl h
  | done | fatal => exact completes_next _

/-- A whole walk completes, from whatever CR3 value and with whatever is done at its frames. -/
theorem walkWhole_completes (visit : Nat → Tally → State → Access Tally) (s : State) :
    Completes (walkWhole visit s) := by
  cases hp : s.physBitsValid with
  | false => exact ⟨_, walkWhole_badConfig visit hp⟩
  | true =>
    by_cases hc : s.args.v0 &&& physMask s.physBits = 0
    · rw [walkWhole_open visit ⟨hp, hc⟩]
      exact WalkRun.result_completes (walkAll_finishes visit _ _ (walkCost_lt_fuel _ _))
    · exact ⟨_, walkWhole_reserved visit hp hc⟩

theorem State.afterSnapshot_completes (s : State) (mm : List MapEntry) (s1 : State) :
    Completes (s.afterSnapshot mm s1) :=
  completes_ite (completes_next _) (Access.orFatal_completes _ fun _ _ => completes_next _)

theorem allocAnswer_completes (found : Option Nat) (s : State) : Completes (allocAnswer found s) := by
  cases found <;> exact completes_next _

section
variable {s : State} (hh : s.halted = false)
include hh

theorem exec_pteRsvd_completes (l : Level) :
    Completes (exec (atLevel l .pteRsvdL1 .pteRsvdL2 .pteRsvdL3 .pteRsvdL4) s) := by
  by_cases hp : 13 ≤ s.physBits ∧ s.physBits ≤ 52
  · exact ⟨_, exec_pteRsvd l hh hp⟩
  · exact ⟨_, exec_pteRsvd_badConfig l hh hp⟩

theorem exec_bitx_completes : Completes (exec .bitx s) := by
  by_cases hr : s.args.v1.toNat ≤ s.args.v2.toNat ∧ s.args.v2.toNat ≤ 64
  · exact ⟨_, exec_bitx hh hr⟩
  · exact ⟨_, exec_bitx_badRange hh hr⟩

theorem exec_biti_completes : Completes (exec .biti s) := by
  by_cases hr : s.args.v1.toNat ≤ s.args.v2.toNat ∧ s.args.v2.toNat ≤ 64
  · exact ⟨_, exec_biti hh hr⟩
  · exact ⟨_, exec_biti_badRange hh hr⟩

theorem exec_walkStart_completes : Completes (exec .walkStart s) := by
  cases hp : s.physBitsValid with
  | false => exact ⟨_, exec_walkStart_badConfig hh hp⟩
  | true =>
    by_cases hc : s.args.v0 &&& physMask s.physBits = 0
    · exact ⟨_, exec_walkStart_open hh ⟨hp, hc⟩⟩
    · exact ⟨_, exec_walkStart_reserved hh hp hc⟩

/-- ADVANCE ends within the bound of R217, so WALK_NEXT does. -/
theorem exec_walkNext_completes : Completes (exec .walkNext s) := by
  cases hw : s.walker with
  | idle => exact ⟨_, exec_walkNext_idle hh hw⟩
  | done p =>
    cases hp : s.physBitsValid with
    | false => exact ⟨_, exec_walkNext_badConfig hh (by rw [hw]; nofun) hp⟩
    | true => exact ⟨_, exec_walkNext_done hh hw hp⟩
  | active l p =>
    cases hp : s.physBitsValid with
    | false => exact ⟨_, exec_walkNext_badConfig hh (by rw [hw]; nofun) hp⟩
    | true =>
      rw [exec_walkNext_active hh hw hp]
      exact Advance.result_completes (advance_finishes s (walkCost_lt_fuel l p))

theorem exec_csrWrite_completes : Completes (exec .csrWrite s) := by
  cases hc : csrOf s.args.v0 with
  | none => exact ⟨_, exec_csrWrite_badAccess hh (.inl hc)⟩
  | some c =>
    cases ha : csrAccess c with
    | ro => exact ⟨_, exec_csrWrite_badAccess hh (.inr ⟨c, hc, ha⟩)⟩
    | rw => exact ⟨_, exec_csrWrite_stores hh hc (.inl ha)⟩
    | uninitOnly =>
      by_cases hl : s.lifecycle = .uninit
      · exact ⟨_, exec_csrWrite_stores hh hc (.inr ⟨ha, hl⟩)⟩
      · exact ⟨_, exec_csrWrite_badState hh hc ha hl⟩

end

theorem exec_csrRead_completes (s : State) : Completes (exec .csrRead s) := by
  cases hc : csrOf s.args.v0 with
  | none => exact ⟨_, exec_csrRead_badAccess hc⟩
  | some c => exact ⟨_, execCsrRead_of_csrOf hc⟩

section
variable {s : State}

theorem exec_arenaFind_completes (hg : gate .arenaFind s = none) : Completes (exec .arenaFind s) := by
  rw [exec_arenaFind hg]
  exact completes_ite (completes_next _)
    (completes_ite (completes_next _) (Access.orFatal_completes _ fun _ _ => completes_next _))

theorem exec_arenaAlloc_completes (hg : gate .arenaAlloc s = none) : Completes (exec .arenaAlloc s) := by
  cases ht : take s.args.v0.toNat s.args.v1.toNat s with
  | error st => exact ⟨_, exec_arenaAlloc_error hg ht⟩
  | ok taken => exact ⟨_, exec_arenaAlloc_ok hg ht⟩

theorem exec_bitmapBuild_completes (hg : gate .bitmapBuild s = none) : Completes (exec .bitmapBuild s) := by
  rw [exec_bitmapBuild hg]
  exact completes_ite (completes_next _) (Access.orFatal_completes _ s.afterSnapshot_completes)

theorem exec_frameFree_completes (hg : gate .frameFree s = none) : Completes (exec .frameFree s) := by
  rw [exec_frameFree hg]
  cases pageSizeOf s.args.v1 with
  | none => exact completes_next _
  | some sz =>
    exact completes_ite (completes_next _)
      (completes_ite (completes_next _) (Access.orFatal_completes _ fun _ _ => completes_next _))

theorem exec_frameTest_completes (hg : gate .frameTest s = none) : Completes (exec .frameTest s) := by
  rw [exec_frameTest hg]
  exact completes_ite (completes_next _) (Access.orFatal_completes _ fun _ _ => completes_next _)

end

/-- Every command completes: its gate turns it away, or it ends in one of its own ways. -/
theorem exec_completes (i : Instr) (s : State) : Completes (exec i s) := by
  cases hg : gate i s with
  | some st => exact ⟨_, exec_of_gate hg⟩
  | none =>
    have hh : runsHalted i = false → s.halted = false :=
      fun hi => (gate_passed hg).2.resolve_right (by rw [hi]; nofun)
    cases i
    case pteNewL1 | pteNewL2 | pteNewL3 | pteNewL4 | pteFlagsL1 | pteFlagsL2 | pteFlagsL3 | pteFlagsL4
        | pteFrameL1 | pteFrameL2 | pteFrameL3 | pteFrameL4
        | ptePresentL1 | ptePresentL2 | ptePresentL3 | ptePresentL4 | pteLargeL2 | pteLargeL3 =>
      exact ⟨_, codec_of_gate_none _ hg⟩
    case pteRsvdL1 => exact exec_pteRsvd_completes (hh rfl) .l1
    case pteRsvdL2 => exact exec_pteRsvd_completes (hh rfl) .l2
    case pteRsvdL3 => exact exec_pteRsvd_completes (hh rfl) .l3
    case pteRsvdL4 => exact exec_pteRsvd_completes (hh rfl) .l4
    case bitx => exact exec_bitx_completes (hh rfl)
    case biti => exact exec_biti_completes (hh rfl)
    case arenaFind => exact exec_arenaFind_completes hg
    case arenaAlloc => exact exec_arenaAlloc_completes hg
    case arenaFree => exact ⟨_, exec_arenaFree hg⟩
    case bitmapBuild => exact exec_bitmapBuild_completes hg
    case walkStart => exact exec_walkStart_completes (hh rfl)
    case walkNext => exact exec_walkNext_completes (hh rfl)
    case walkMark => exact exec_walkMark hg ▸ walkWhole_completes markFrame s
    case walkCheck => exact exec_walkCheck hg ▸ walkWhole_completes checkFrame s
    case frameAlloc => exact exec_frameAlloc hg ▸ Access.orFatal_completes _ allocAnswer_completes
    case frameFree => exact exec_frameFree_completes hg
    case frameTest => exact exec_frameTest_completes hg
    case freeCount => exact exec_freeCount hg ▸ Access.orFatal_completes _ fun _ _ => completes_next _
    case bitmapFreeze => exact ⟨_, exec_bitmapFreeze hg⟩
    case csrRead => exact exec_csrRead_completes s
    case csrWrite => exact exec_csrWrite_completes (hh rfl)
    case reset => exact ⟨_, execReset_eq s⟩

/-- Every step completes: the events that are no command are next states by themselves. -/
theorem step_completes (s : State) : Completes (step s) := by
  match hin : s.inputs with
  | [] => exact ⟨_, step_of_noInput hin⟩
  | .resetLine :: rest => exact ⟨_, step_of_resetLine hin⟩
  | .store a b :: rest => exact ⟨_, step_of_store hin⟩
  | .command r :: rest =>
    match hd : decode r.cmd with
    | .ok i => exact step_of_decoded hin hd ▸ exec_completes i _
    | .error e => exact ⟨_, step_of_illegal hin hd⟩

/-- Settles O7: command by command, then event by event; the walks end by the bound of R217. -/
theorem everyCommandCompletes : Obligations.EveryCommandCompletes := ⟨exec_completes, step_completes⟩

end Sys2Proof.Machine
end

section
/-! The halted block (60_exceptions.md R311; O44) and what a recoverable status leaves (R301; O47). -/

namespace Sys2Proof.Machine

/-! ### While HALTED is set -/

section
variable {s t : State} (hh : s.halted = true)
include hh

/-- HALTED comes first for an illegal word as well (R313). -/
theorem rejectWord_of_halted : rejectWord s = fail .halted s := by
  unfold rejectWord
  rw [hh, if_pos rfl]

/-- No effect of a command clears HALTED; only the reset state does. -/
theorem exec_keeps_halted {i : Instr} (h : exec i s = .next t) (hr : i ≠ .reset) : t.halted = true := by
  obtain ⟨_, _, _, _, _, _, rfl, ⟨hsame, _⟩ | ⟨hset, _⟩⟩ := exec_effect h hr
  · exact hsame.trans hh
  · exact hset

/-- The step that clears HALTED has taken the reset input or RESET. -/
theorem step_clears_halted (h : step s = .next t) (ht : t.halted = false) :
    ∃ x rest, s.inputs = x :: rest ∧ (x = .resetLine ∨ ∃ r, x = .command r ∧ decode r.cmd = .ok .reset) := by
  have hstill : t.halted ≠ true := Bool.eq_false_iff.mp ht
  match hin : s.inputs with
  | [] =>
    cases (step_of_noInput hin).symm.trans h
    exact absurd hh hstill
  | .resetLine :: rest => exact ⟨_, rest, rfl, .inl rfl⟩
  | .store a b :: rest =>
    cases (step_of_store hin).symm.trans h
    exact absurd hh hstill
  | .command r :: rest =>
    match hd : decode r.cmd with
    | .error e =>
      cases (step_of_illegal hin hd).symm.trans h
      exact absurd hh hstill
    | .ok i =>
      have hi : i = .reset := by
        by_contra hr
        rw [step_of_decoded hin hd] at h
        exact hstill (exec_keeps_halted (by exact hh) h hr)
      exact ⟨_, rest, rfl, .inr ⟨r, rfl, hi ▸ hd⟩⟩

end

/-- The reset input and RESET leave the block running (45_control.md R276). -/
theorem step_reset_not_halted {s : State} {x : Input} {rest : List Input} (hin : s.inputs = x :: rest)
    (hx : x = .resetLine ∨ ∃ r, x = .command r ∧ decode r.cmd = .ok .reset) :
    ∃ t, step s = .next t ∧ t.halted = false := by
  rcases hx with rfl | ⟨r, rfl, hd⟩
  · exact ⟨_, step_of_resetLine hin, rfl⟩
  · exact ⟨_, (step_of_decoded hin hd).trans (execReset_eq _), rfl⟩

/-- Settles O44: the gate turns the commands away, and of the ways out only reset is one. -/
theorem haltedRefusesCommands : Obligations.HaltedRefusesCommands := by
  intro s hh
  refine ⟨fun i h1 h2 => ?refused, fun i t h hr => ?stays, fun t h ht => ?cleared, fun n v hv hn => ?csrRead,
    fun r rest e hin hd => ?illegal, fun x rest hin hx => ?out⟩
  case refused => exact exec_of_gate (gate_of_halted hh h1 h2)
  case stays => exact exec_keeps_halted hh h hr
  case cleared => exact step_clears_halted hh h ht
  case csrRead => exact exec_csrRead_of_mem_registers hv hn
  case illegal => exact (step_of_illegal hin hd).trans (congrArg _ (rejectWord_of_halted (by exact hh)))
  case out => exact step_reset_not_halted hin hx

/-! ### After a recoverable status -/

/-- What R301 lets a command change that ends with the status of `t`. -/
def RecoverableFrame (s t : State) : Prop :=
  t = { s with
    status := t.status, res := .zero, answers := t.answers
    lifecycle := if t.status = .outOfMemory ∧ s.lifecycle = .built then .inuse else s.lifecycle }

theorem fail_recoverableFrame {st : Status} (s : State) (hst : st ≠ .outOfMemory) :
    RecoverableFrame s (fail st s) := by
  unfold RecoverableFrame
  rw [fail_status, if_neg fun h => hst h.1]
  rfl

/-- OUT_OF_MEMORY follows a scan that only reads, after the move to INUSE (44_frame_allocator.md R240). -/
theorem outOfMemory_recoverableFrame {s s1 : State} (hl : s.lifecycle = .built ∨ s.lifecycle = .inuse)
    (hread : ReadStep { s with lifecycle := .inuse } s1) : RecoverableFrame s (fail .outOfMemory s1) := by
  have hmove : (if Status.outOfMemory = .outOfMemory ∧ s.lifecycle = .built then .inuse else s.lifecycle) =
      Lifecycle.inuse := by
    rcases hl with e | e <;> simp [e]
  unfold RecoverableFrame
  rw [fail_status, hmove]
  conv_lhs => rw [hread]
  rfl

/-- Settles O47: of the endings of a command, OK and the fatal faults are excluded; the gate and the command's own
checks leave the state as it was, and only FRAME_ALLOC ends with OUT_OF_MEMORY. -/
theorem recoverableChangesNothing : Obligations.RecoverableChangesNothing := by
  intro i s t h hok hfatal
  by_cases hr : i = .reset
  · subst hr
    cases (execReset_eq s).symm.trans h
    exact absurd rfl hok
  rcases exec_ends h hr with
    ⟨st, rfl, _, _, hmem, _⟩ | ⟨rfl, rfl⟩ | ⟨s1, he, ⟨r, rfl⟩ | ⟨f, _, rfl, _⟩ | ⟨rfl, hread, rfl⟩⟩
  · exact ⟨fail_recoverableFrame s hmem, fun e => absurd e hmem⟩
  · exact ⟨fail_recoverableFrame s nofun, nofun⟩
  · exact absurd rfl hok
  · exact absurd rfl hfatal
  · rcases execFrameAlloc_cases h with ⟨st, e, _, _, hmem, _⟩ | ⟨_, hl, _⟩
    · exact absurd (congrArg State.status e).symm hmem
    · exact ⟨outOfMemory_recoverableFrame hl hread, fun _ => rfl⟩

end Sys2Proof.Machine
end

section
/-! The state after reset (70_reset_and_hazards.md R330-R332; O5, O56): RESET and the reset input both leave
`resetBlock`, which differs from the reset state in memory and the model's own fields only. -/

namespace Sys2Proof.Machine

/-- CTRL, number 0x08, is the one numbered register that reset does not clear (R330). -/
theorem readCsr_reset (c : Csr) : State.reset.readCsr c = if csrNumber c = 0x08 then 2 else 0 := by
  cases c <;> rfl

/-- Settles O5: the command and the input leave the same state, and the registers are read by number. -/
theorem resetResult : Obligations.ResetResult := by
  refine ⟨decode_encode .reset, execReset_eq, fun s rest hin => ?input, fun n v hmem => ?registers⟩
  case input => exact (step_of_resetLine hin).trans (execReset_eq _).symm
  case registers =>
    obtain ⟨c, rfl, rfl⟩ := mem_registers_iff.mp hmem
    exact readCsr_reset c

/-- Settles O56: the reset state is what reset makes of it, and its memory, which lists nothing, is canonical. -/
theorem invAtReset : Obligations.InvAtReset := by
  have hcanonical : State.reset.mem.wf = true := by decide
  exact resetBlock_inv hcanonical

end Sys2Proof.Machine
end
